-- ==== Sys2Proof/Word.lean ====
section
/-! DEFINITION. The word types of the block: command words, bytes and cycle stamps (00_scope.md R13; 30_encoding.md R101). Amplitudes and frames are
plain integers, since their widths are parameters (00_scope.md R10; log 3). -/

namespace Sys2Proof

/-- One 16-bit command word, head or extension (30_encoding.md R101). -/
abbrev Word := BitVec 16

/-- A register byte or a wave-table byte (10_state.md R40, R56). -/
abbrev Byte := BitVec 8

/-- A cycle stamp or position, `i64` in two's complement (10_state.md R31, R53); its value is `toInt`. -/
abbrev Cycle := BitVec 64

/-- The largest value of an `i64`. -/
def maxI64 : Int := 9223372036854775807

end Sys2Proof
end

