-- ==== Sys2Proof/Config.lean ====
section
/-! DEFINITION. What an instance fixes (00_scope.md R10 to R12) and the free values: the values the spec leaves open while the machine goes on. -/

namespace Sys2Proof

/-- `CH_KIND`, fixed at build time for an instance (00_scope.md R12). -/
inductive ChKind where
  | square
  | wave
deriving DecidableEq, Repr

/-- The three agents, and at the same time the three ports (00_scope.md R9, 60_exceptions.md R320). -/
inductive Agent where
  /-- W, the emulation side, clock domain E. -/
  | w
  /-- R, the audio side, clock domain A. -/
  | r
  /-- The host, which issues `RST` only. -/
  | host
deriving DecidableEq, Repr, Inhabited

/-- A ring record (10_state.md R53). `stop` is the spec's field `end`, `isOpen` its field `open`; `amp` is an `i<AMP_W>`, kept
as the signed number it is (log 3). -/
structure Record where
  start  : Cycle
  stop   : Cycle
  isOpen : Bool
  amp    : Int
deriving DecidableEq, Repr, Inhabited

/-- The parameters of an instance (00_scope.md R10), with the constraints of R11 as proof fields, so that no ill-formed
instance can be written down. `CUR_W` follows from `RING_N`, `FSEQ_PERIOD` from `CPU_HZ` and `FSEQ_HZ`, `FDIV_MULT` from the
kind. The trigger value of a divider counter is below its period (40 R131); software may set the envelope's period to 1,
so the one value `MODCNT_TRIG` can have is 0 (DEDUCED, log 3). -/
structure Params where
  kind          : ChKind
  ringN         : Nat
  cpuHz         : Nat
  fseqHz        : Nat
  envDiv        : Nat
  gain          : Int
  wramReset     : Vector Byte 16
  ampW          : Nat
  outW          : Nat
  modcntTrig    : Nat
  ringN_ge      : 2 ≤ ringN
  cpuHz_ge      : 1 ≤ cpuHz
  ampW_ge       : 5 ≤ ampW
  outW_ge       : ampW ≤ outW
  modcntTrig_lt : modcntTrig < 1
deriving DecidableEq, Repr

/-- The defaults of 00_scope.md R10 (DESIGN CHOICE for the open ones, `ENV_DIV` PRESUMED: log 2). -/
def Params.default : Params where
  kind          := .square
  ringN         := 131072
  cpuHz         := 4194304
  fseqHz        := 512
  envDiv        := 8
  gain          := 1
  wramReset     := Vector.replicate 16 0
  ampW          := 8
  outW          := 16
  modcntTrig    := 0
  ringN_ge      := by decide
  cpuHz_ge      := by decide
  ampW_ge       := by decide
  outW_ge       := by decide
  modcntTrig_lt := by decide

/-- `CUR_W = ceil(log2(RING_N))`, the width of a ring cursor (00_scope.md R10). A cursor is kept as the number it is, in
`[0, RING_N)` (10_state.md R54). -/
def Params.curW (p : Params) : Nat := Nat.clog 2 p.ringN

/-- FREE VALUE (log 12): the content of a ring slot nothing has written since reset number `resets` (93 U8, "any value").
No rule of the spec reads one (10_state.md R55 item 3). -/
opaque Config.deadRecord (resets slot : Nat) : Record

/-- FREE VALUE (log 13): what output frame `k` of the driver's buffer, `OUT_W` bits wide, holds when neither `OCLR` nor `RND` has written it
(10_state.md R57, 93 U11, "any value until written"). -/
opaque Config.freeFrame (outW k : Nat) : BitVec outW

/-- FREE VALUE (log 29): the amplitude of an `INS` whose byte, read as `i8`, does not fit `i<AMP_W>`, which can be with
`AMP_W < 8` only; 30_encoding.md R104 states the operand for `AMP_W >= 8`. -/
opaque Config.freeAmp (ampW : Nat) (b : Byte) : BitVec ampW

/-- FREE VALUE (log 6): the `n`-th choice of the agent that steps next, where the environment's schedule gives none
(10_state.md R62). -/
opaque Config.freeAgent (n : Nat) : Agent

end Sys2Proof
end

