-- ==== Sys2Proof/Syntax.lean ====
section
/-! DEFINITION. The transactions of the block, one constructor per row of spec/opcode_table.json (30_encoding.md R105, R127). -/

namespace Sys2Proof

/-- The transactions. The six `WR` rows with select 0 to 2 come in pairs: one head, read by `CH_KIND` (R105). -/
inductive Instr where
  /-- `NOP` (45 R274). -/
  | nop
  /-- `WR SWP, d`, `SQUARE` (45 R260). -/
  | wrSwp (d : Byte)
  /-- `WR WON, d`, `WAVE` (45 R266). -/
  | wrWon (d : Byte)
  /-- `WR LEN, d`, `SQUARE` (45 R261). -/
  | wrLen (d : Byte)
  /-- `WR WLEN, d`, `WAVE` (45 R267). -/
  | wrWlen (d : Byte)
  /-- `WR ENV, d`, `SQUARE` (42 R182). -/
  | wrEnv (d : Byte)
  /-- `WR WVOL, d`, `WAVE` (45 R268). -/
  | wrWvol (d : Byte)
  /-- `WR FLO, d` (41 R155). -/
  | wrFlo (d : Byte)
  /-- `WR FHI, d` (41 R157). -/
  | wrFhi (d : Byte)
  /-- `RD sel` (45 R262); legal for `sel` 0 to 4. -/
  | rd (sel : BitVec 3)
  /-- `ENVCLK` (42 R185). -/
  | envclk
  /-- `CYC` (41 R156). -/
  | cyc
  /-- `EMU n` (41 R158). -/
  | emu (n : BitVec 12)
  /-- `FDIVN n` (41 R160). -/
  | fdivn (n : BitVec 12)
  /-- `INS amp, c` (43 R204); `amp` is the head's byte, its value is R104's (`State.insAmp`). -/
  | ins (amp : Byte) (c : Cycle)
  /-- `UPD ref` (43 R212). -/
  | upd (ref : Cycle)
  /-- `RND F, fs, ref` (44 R234). -/
  | rnd (frames : BitVec 12) (fs : BitVec 32) (ref : Cycle)
  /-- `WRW idx, d`, `WAVE` (45 R269). -/
  | wrw (idx : BitVec 4) (d : Byte)
  /-- `RDW idx`, `WAVE` (45 R271). -/
  | rdw (idx : BitVec 4)
  /-- `OCLR F` (44 R232). -/
  | oclr (frames : BitVec 12)
  /-- `RST` (70 R340). -/
  | rst
deriving DecidableEq, Repr

end Sys2Proof
end

