-- ==== Sys2Proof/WellFormed.lean ====
section
/-! DEFINITION. Which transactions are commands of an instance of a given kind (30_encoding.md R104, R118). -/

namespace Sys2Proof

/-- The kind a transaction is restricted to, if any (the `kind` of spec/opcode_table.json; 30_encoding.md R105, R118). -/
def Instr.onlyKind : Instr → Option ChKind
  | .nop => none
  | .wrSwp _ => some .square
  | .wrWon _ => some .wave
  | .wrLen _ => some .square
  | .wrWlen _ => some .wave
  | .wrEnv _ => some .square
  | .wrWvol _ => some .wave
  | .wrFlo _ => none
  | .wrFhi _ => none
  | .rd _ => none
  | .envclk => none
  | .cyc => none
  | .emu _ => none
  | .fdivn _ => none
  | .ins _ _ => none
  | .upd _ => none
  | .rnd _ _ _ => none
  | .wrw _ _ => some .wave
  | .rdw _ => some .wave
  | .oclr _ => none
  | .rst => none

/-- The register select is one of the five that exist (30_encoding.md R118). -/
def Instr.selExists : Instr → Bool
  | .rd sel => decide (sel.toNat ≤ 4)
  | _ => true

/-- The transaction is one of the kind `k` (30_encoding.md R118, R124). -/
def Instr.kindFits (k : ChKind) (i : Instr) : Bool :=
  match i.onlyKind with
  | none => true
  | some k' => decide (k' = k)

/-- A command of an instance of kind `k`. All other ranges of R104 are carried by the operand types. -/
def Instr.wellFormed (k : ChKind) (i : Instr) : Bool :=
  i.selExists && i.kindFits k

end Sys2Proof
end

