-- ==== Sys2Proof/Decode.lean ====
section
/-! DEFINITION. Command words: the total decoder with its named rejections, then the encoder, the opcode table, the pseudo-instructions and the assembler text (30_encoding.md). -/

namespace Sys2Proof

/-! ### Fields of the head and operand assembly (R101, R102, R104) -/

/-- `op = head[15:12]`. -/
def opOf (h : Word) : BitVec 4 := h.extractLsb' 12 4

/-- `a = head[11:8]`. -/
def aOf (h : Word) : BitVec 4 := h.extractLsb' 8 4

/-- `b = head[7:0]`. -/
def bOf (h : Word) : Byte := h.extractLsb' 0 8

/-- `n12 = head[11:0]`. -/
def n12Of (h : Word) : BitVec 12 := h.extractLsb' 0 12

/-- The number of extension words, a function of `op` alone (R102, R105). -/
def extWords (op : BitVec 4) : Nat :=
  match op.toNat with
  | 7 => 4
  | 8 => 4
  | 9 => 6
  | _ => 0

/-- A 32-bit operand `{x1, x0}` (R102). -/
def join32 (x0 x1 : Word) : BitVec 32 := BitVec.ofNat 32 (x1.toNat * 2 ^ 16 + x0.toNat)

/-- A 64-bit operand `{x3, x2, x1, x0}`, least significant word first (R102, 20_memory.md R73). -/
def join64 (x0 x1 x2 x3 : Word) : BitVec 64 :=
  BitVec.ofNat 64 (x3.toNat * 2 ^ 48 + x2.toNat * 2 ^ 32 + x1.toNat * 2 ^ 16 + x0.toNat)

/-! ### Ownership of transactions (60_exceptions.md R320) -/

/-- Ownership of transactions (60_exceptions.md R320, 30_encoding.md R105 column "Port"). -/
def Agent.owns : Agent → Instr → Bool
  | .w, .nop | .w, .wrSwp _ | .w, .wrWon _ | .w, .wrLen _ | .w, .wrWlen _ | .w, .wrEnv _ | .w, .wrWvol _
  | .w, .wrFlo _ | .w, .wrFhi _ | .w, .rd _ | .w, .envclk | .w, .cyc | .w, .emu _ | .w, .fdivn _
  | .w, .ins _ _ | .w, .wrw _ _ | .w, .rdw _ => true
  | .r, .nop | .r, .upd _ | .r, .rnd _ _ _ | .r, .oclr _ => true
  | .host, .rst => true
  | _, _ => false

/-! ### The decoder (R105, R118 to R124) -/

/-- Why a command is illegal. Every one of them is the fault `ILLEGAL_CMD` (60_exceptions.md R302). -/
inductive Illegal where
  /-- The stream is empty: no command stands there. -/
  | noCommand
  /-- Opcode 0xD or 0xE (R119). -/
  | reservedOpcode
  /-- `WR` or `RD` with a select 5 to 15 (R118). -/
  | noSuchRegister
  /-- A must-be-zero field that is not zero (R120). -/
  | nonZeroField
  /-- `WRW` or `RDW` sent to a `SQUARE` instance (R118). -/
  | noWaveTable
  /-- A command on the port of an agent that does not own it (R122). -/
  | wrongPort
  /-- The stream ends inside the command (R123). -/
  | truncated
deriving DecidableEq, Repr

/-- Format `Z`: `n12` must be 0 (R103, R120). -/
def decodeZ (h : Word) (i : Instr) (ws : List Word) : Except Illegal (Instr × List Word) :=
  if n12Of h = 0 then .ok (i, ws) else .error .nonZeroField

/-- `WR sel, d` (R105, R118): the meaning of selects 0 to 2 depends on the kind. -/
def decodeWr (k : ChKind) (h : Word) (ws : List Word) : Except Illegal (Instr × List Word) :=
  match (aOf h).toNat with
  | 0 => .ok ((match k with | .square => .wrSwp (bOf h) | .wave => .wrWon (bOf h)), ws)
  | 1 => .ok ((match k with | .square => .wrLen (bOf h) | .wave => .wrWlen (bOf h)), ws)
  | 2 => .ok ((match k with | .square => .wrEnv (bOf h) | .wave => .wrWvol (bOf h)), ws)
  | 3 => .ok (.wrFlo (bOf h), ws)
  | 4 => .ok (.wrFhi (bOf h), ws)
  | _ => .error .noSuchRegister

/-- `RD sel` (R105, R118, R120). -/
def decodeRd (h : Word) (ws : List Word) : Except Illegal (Instr × List Word) :=
  if 4 < (aOf h).toNat then .error .noSuchRegister
  else if bOf h = 0 then .ok (.rd ((aOf h).extractLsb' 0 3), ws)
  else .error .nonZeroField

/-- `INS amp, c` (R105, R120, R123). -/
def decodeIns (h : Word) (ws : List Word) : Except Illegal (Instr × List Word) :=
  if aOf h = 0 then
    match ws with
    | x0 :: x1 :: x2 :: x3 :: rest => .ok (.ins (bOf h) (join64 x0 x1 x2 x3), rest)
    | _ => .error .truncated
  else .error .nonZeroField

/-- `UPD ref` (R105, R120, R123). -/
def decodeUpd (h : Word) (ws : List Word) : Except Illegal (Instr × List Word) :=
  if n12Of h = 0 then
    match ws with
    | x0 :: x1 :: x2 :: x3 :: rest => .ok (.upd (join64 x0 x1 x2 x3), rest)
    | _ => .error .truncated
  else .error .nonZeroField

/-- `RND F, fs, ref` (R105, R123). -/
def decodeRnd (h : Word) (ws : List Word) : Except Illegal (Instr × List Word) :=
  match ws with
  | x0 :: x1 :: x2 :: x3 :: x4 :: x5 :: rest => .ok (.rnd (n12Of h) (join32 x0 x1) (join64 x2 x3 x4 x5), rest)
  | _ => .error .truncated

/-- `WRW idx, d`, in a `WAVE` instance only (R105, R118). -/
def decodeWrw (k : ChKind) (h : Word) (ws : List Word) : Except Illegal (Instr × List Word) :=
  match k with
  | .square => .error .noWaveTable
  | .wave => .ok (.wrw (aOf h) (bOf h), ws)

/-- `RDW idx`, in a `WAVE` instance only (R105, R118, R120). -/
def decodeRdw (k : ChKind) (h : Word) (ws : List Word) : Except Illegal (Instr × List Word) :=
  match k with
  | .square => .error .noWaveTable
  | .wave => if bOf h = 0 then .ok (.rdw (aOf h), ws) else .error .nonZeroField

/-- The first command of a stream and the rest of the stream, in an instance of kind `k` (R105, R124). -/
def decode (k : ChKind) : List Word → Except Illegal (Instr × List Word)
  | [] => .error .noCommand
  | h :: ws =>
    match (opOf h).toNat with
    | 0x0 => decodeZ h .nop ws
    | 0x1 => decodeWr k h ws
    | 0x2 => decodeRd h ws
    | 0x3 => decodeZ h .envclk ws
    | 0x4 => decodeZ h .cyc ws
    | 0x5 => .ok (.emu (n12Of h), ws)
    | 0x6 => .ok (.fdivn (n12Of h), ws)
    | 0x7 => decodeIns h ws
    | 0x8 => decodeUpd h ws
    | 0x9 => decodeRnd h ws
    | 0xA => decodeWrw k h ws
    | 0xB => decodeRdw k h ws
    | 0xC => .ok (.oclr (n12Of h), ws)
    | 0xF => decodeZ h .rst ws
    | _ => .error .reservedOpcode

/-- The first command of the stream of port `p`: a command the port does not own is illegal (R122). -/
def decodeOn (k : ChKind) (p : Agent) (ws : List Word) : Except Illegal (Instr × List Word) :=
  match decode k ws with
  | .ok (i, rest) => if p.owns i then .ok (i, rest) else .error .wrongPort
  | .error e => .error e

/-- The stream without its first command, framed by `op` alone and not decoded (R102): what is left when a command is
refused or illegal (DEDUCED, log 11). -/
def afterCommand : List Word → List Word
  | [] => []
  | h :: ws => ws.drop (extWords (opOf h))

/-- Whole-stream decoding (R124): the transactions up to the end of the stream or the first illegal command. -/
def decodeSome (k : ChKind) : Nat → List Word → List Instr × Option Illegal
  | _, [] => ([], none)
  | 0, _ :: _ => ([], some .truncated)
  | fuel + 1, h :: ws =>
    match decode k (h :: ws) with
    | .error e => ([], some e)
    | .ok (i, rest) => (i :: (decodeSome k fuel rest).1, (decodeSome k fuel rest).2)

/-- Whole-stream decoding; a stream of `n` words holds at most `n` commands (R124). -/
def decodeStream (k : ChKind) (ws : List Word) : List Instr × Option Illegal :=
  decodeSome k ws.length ws

/-! ### The opcode table's words (spec/opcode_table.json) -/

/-- The words of the instruction whose bits are `w`, bit 0 the least significant bit of the head, the words after it
counted on from there; the bits above `nbits` are 0. -/
def tableWords (nbits w : Nat) : List Word :=
  let v := w % 2 ^ nbits
  let word := fun (j : Nat) => BitVec.ofNat 16 (v / 2 ^ (16 * j))
  (List.range (1 + extWords (opOf (word 0)))).map word

/-- The kind under which the words are a command: `k` itself if it can be, else the other one (log 19). -/
def tableKind (k : ChKind) (ws : List Word) : ChKind :=
  match decode k ws with
  | .ok _ => k
  | .error _ =>
    match k with
    | .square => (match decode .wave ws with | .ok _ => .wave | .error _ => .square)
    | .wave => (match decode .square ws with | .ok _ => .square | .error _ => .wave)

/-- The instruction the decoder reads from an instruction of the opcode table: the `SQUARE` reading where there is one,
else the `WAVE` reading (log 19). -/
def decodeTableWord (nbits w : Nat) : Option Instr :=
  match decode (tableKind .square (tableWords nbits w)) (tableWords nbits w) with
  | .ok (i, _) => some i
  | .error _ => none

/-! ### The encoder (R101 to R105) -/

/-- The head `{op, a, b}`. -/
def headOf (op a : BitVec 4) (b : Byte) : Word := BitVec.ofNat 16 (op.toNat * 4096 + a.toNat * 256 + b.toNat)

/-- The head `{op, n12}`. -/
def headN (op : BitVec 4) (n : BitVec 12) : Word := BitVec.ofNat 16 (op.toNat * 4096 + n.toNat)

/-- The two extension words of a 32-bit operand. -/
def words32 (v : BitVec 32) : List Word := [v.extractLsb' 0 16, v.extractLsb' 16 16]

/-- The four extension words of a 64-bit operand, least significant first. -/
def words64 (v : BitVec 64) : List Word :=
  [v.extractLsb' 0 16, v.extractLsb' 16 16, v.extractLsb' 32 16, v.extractLsb' 48 16]

/-- The command words of a transaction (R105). -/
def encode : Instr → List Word
  | .nop => [headN 0x0 0]
  | .wrSwp d => [headOf 0x1 0 d]
  | .wrWon d => [headOf 0x1 0 d]
  | .wrLen d => [headOf 0x1 1 d]
  | .wrWlen d => [headOf 0x1 1 d]
  | .wrEnv d => [headOf 0x1 2 d]
  | .wrWvol d => [headOf 0x1 2 d]
  | .wrFlo d => [headOf 0x1 3 d]
  | .wrFhi d => [headOf 0x1 4 d]
  | .rd sel => [headOf 0x2 (sel.zeroExtend 4) 0]
  | .envclk => [headN 0x3 0]
  | .cyc => [headN 0x4 0]
  | .emu n => [headN 0x5 n]
  | .fdivn n => [headN 0x6 n]
  | .ins amp c => headOf 0x7 0 amp :: words64 c
  | .upd ref => headN 0x8 0 :: words64 ref
  | .rnd frames fs ref => headN 0x9 frames :: (words32 fs ++ words64 ref)
  | .wrw idx d => [headOf 0xA idx d]
  | .rdw idx => [headOf 0xB idx 0]
  | .oclr frames => [headN 0xC frames]
  | .rst => [headN 0xF 0]

/-! ### The opcode map (R105, R127) -/

/-- One row of the opcode map: what selects it, its length, its ports and the kind it is restricted to. -/
structure OpRow where
  mnemonic : String
  pattern  : Word
  mask     : Word
  ext      : Nat
  ports    : List Agent
  kind     : Option ChKind
deriving DecidableEq, Repr

/-- The rows of R105 with the three `WAVE` readings, 21 rows as spec/opcode_table.json (R127). -/
def opcodeRows : List OpRow := [
  ⟨"NOP", 0x0000, 0xFFFF, 0, [.w, .r], none⟩,
  ⟨"WR_SWP__d", 0x1000, 0xFF00, 0, [.w], some .square⟩,
  ⟨"WR_WON__d", 0x1000, 0xFF00, 0, [.w], some .wave⟩,
  ⟨"WR_LEN__d", 0x1100, 0xFF00, 0, [.w], some .square⟩,
  ⟨"WR_WLEN__d", 0x1100, 0xFF00, 0, [.w], some .wave⟩,
  ⟨"WR_ENV__d", 0x1200, 0xFF00, 0, [.w], some .square⟩,
  ⟨"WR_WVOL__d", 0x1200, 0xFF00, 0, [.w], some .wave⟩,
  ⟨"WR_FLO__d", 0x1300, 0xFF00, 0, [.w], none⟩,
  ⟨"WR_FHI__d", 0x1400, 0xFF00, 0, [.w], none⟩,
  ⟨"RD_sel", 0x2000, 0xF8FF, 0, [.w], none⟩,
  ⟨"ENVCLK", 0x3000, 0xFFFF, 0, [.w], none⟩,
  ⟨"CYC", 0x4000, 0xFFFF, 0, [.w], none⟩,
  ⟨"EMU_n", 0x5000, 0xF000, 0, [.w], none⟩,
  ⟨"FDIVN_n", 0x6000, 0xF000, 0, [.w], none⟩,
  ⟨"INS_amp__c", 0x7000, 0xFF00, 4, [.w], none⟩,
  ⟨"UPD_ref", 0x8000, 0xFFFF, 4, [.r], none⟩,
  ⟨"RND_F__fs__ref", 0x9000, 0xF000, 6, [.r], none⟩,
  ⟨"WRW_idx__d", 0xA000, 0xF000, 0, [.w], some .wave⟩,
  ⟨"RDW_idx", 0xB000, 0xF0FF, 0, [.w], some .wave⟩,
  ⟨"OCLR_F", 0xC000, 0xF000, 0, [.r], none⟩,
  ⟨"RST", 0xF000, 0xFFFF, 0, [.host], none⟩]

/-- The row applies to an instance of kind `k`. -/
def rowFits (k : ChKind) (r : OpRow) : Bool :=
  match r.kind with
  | none => true
  | some k' => decide (k' = k)

/-- The rows of an instance of kind `k`. -/
def rowsFor (k : ChKind) : List OpRow := opcodeRows.filter (rowFits k)

/-- "A head word `h` selects a row when `h & mask = match`" (R105). -/
def rowSelects (r : OpRow) (h : Word) : Bool := decide (h &&& r.mask = r.pattern)

/-- The head is one of the `RD` heads whose select does not exist; they match `RD`'s mask and are illegal (R118, R127). -/
def isDeadRd (h : Word) : Bool := decide (opOf h = 2 ∧ 4 < (aOf h).toNat)

/-! ### Pseudo-instructions (R126) and the absolute form (41 R159) -/

/-- `SETFREQ code`. -/
def pseudoSetfreq (code : BitVec 11) : List Instr :=
  [.wrFlo (code.extractLsb' 0 8), .wrFhi ((code.extractLsb' 8 3).zeroExtend 8)]

/-- `TRIG code`. -/
def pseudoTrig (code : BitVec 11) : List Instr :=
  [.wrFlo (code.extractLsb' 0 8), .wrFhi (0x80 ||| (code.extractLsb' 8 3).zeroExtend 8)]

/-- `SETENV v, dir, p`. -/
def pseudoSetenv (v : BitVec 4) (dir : BitVec 1) (p : BitVec 3) : List Instr :=
  [.wrEnv (BitVec.ofNat 8 (v.toNat * 16 + dir.toNat * 8 + p.toNat))]

/-- `SETDUTY k`. -/
def pseudoSetduty (k : BitVec 2) : List Instr := [.wrLen (BitVec.ofNat 8 (k.toNat * 64))]

/-- `EMUL n`. R126 defines it for `n > 4095`; below, the model takes it for the one command `EMU n`, `EMU 0` included
(DESIGN CHOICE, log 27). -/
def pseudoEmul (n : Nat) : List Instr :=
  if n ≤ 4095 then [.emu (BitVec.ofNat 12 n)]
  else List.replicate (n / 4095) (.emu 4095) ++ (if n % 4095 = 0 then [] else [.emu (BitVec.ofNat 12 (n % 4095))])

/-- `SILENCE F`. -/
def pseudoSilence (frames : BitVec 12) : List Instr := [.oclr frames]

/-- The absolute form `emulate(currentCycle)` at cycle count `cyc` (41_frequency_divider.md R159): `EMU`, or `EMUL` where
the count exceeds 4095, of `currentCycle - cyc`; `EMU 0` where they are equal. It requires `currentCycle >= cyc`: any other
call has no expansion. -/
def pseudoEmulateTo (currentCycle cyc : Nat) : Option (List Instr) :=
  if cyc ≤ currentCycle then some (pseudoEmul (currentCycle - cyc)) else none

/-! ### Assembler text (R125) -/

/-- One hexadecimal digit. -/
def hexDigit (n : Nat) : String := String.singleton ("0123456789ABCDEF".toList.getD n '0')

/-- A byte operand as the syntax of R125 writes it. -/
def hexByte (d : Byte) : String := "0x" ++ hexDigit (d.toNat / 16) ++ hexDigit (d.toNat % 16)

/-- The register names of R125. -/
def regName (k : ChKind) (sel : Nat) : String :=
  match sel, k with
  | 0, .square => "SWP"
  | 0, .wave => "WON"
  | 1, .square => "LEN"
  | 1, .wave => "WLEN"
  | 2, .square => "ENV"
  | 2, .wave => "WVOL"
  | 3, _ => "FLO"
  | 4, _ => "FHI"
  | n, _ => toString n

/-- One command in the syntax of R125, in an instance of kind `k`. -/
def asmText (k : ChKind) : Instr → String
  | .nop => "NOP"
  | .wrSwp d => "WR SWP, " ++ hexByte d
  | .wrWon d => "WR WON, " ++ hexByte d
  | .wrLen d => "WR LEN, " ++ hexByte d
  | .wrWlen d => "WR WLEN, " ++ hexByte d
  | .wrEnv d => "WR ENV, " ++ hexByte d
  | .wrWvol d => "WR WVOL, " ++ hexByte d
  | .wrFlo d => "WR FLO, " ++ hexByte d
  | .wrFhi d => "WR FHI, " ++ hexByte d
  | .rd sel => "RD " ++ regName k sel.toNat
  | .envclk => "ENVCLK"
  | .cyc => "CYC"
  | .emu n => "EMU " ++ toString n.toNat
  | .fdivn n => "FDIVN " ++ toString n.toNat
  | .ins amp c => "INS " ++ toString amp.toInt ++ ", " ++ toString c.toInt
  | .upd ref => "UPD " ++ toString ref.toInt
  | .rnd frames fs ref => "RND " ++ toString frames.toNat ++ ", " ++ toString fs.toNat ++ ", " ++ toString ref.toInt
  | .wrw idx d => "WRW " ++ toString idx.toNat ++ ", " ++ hexByte d
  | .rdw idx => "RDW " ++ toString idx.toNat
  | .oclr frames => "OCLR " ++ toString frames.toNat
  | .rst => "RST"

/-- The port prefix of R125; the host's `RST` has none. -/
def asmPort : Agent → String
  | .w => "W: "
  | .r => "R: "
  | .host => ""

end Sys2Proof
end

