-- ==== Sys2Proof/Machine/State.lean ====
section
/-! DEFINITION. The state of one block instance, all of it plain data (10_state.md), with the model's own input fields, and the state after reset (R63). -/

namespace Sys2Proof.Machine

/-- Sparse storage keyed by a unit index, in one canonical form: indices strictly rising (`Memory.wf`). An unlisted
index holds no value. Used for the ring (unit: record) and the output buffer (unit: frame) (10_state.md R61). -/
abbrev Memory (α : Type) := List (Nat × α)

/-- Fault codes (60_exceptions.md R300). Code 7 is unused and never written. -/
inductive FaultCode where
  | none
  /-- Code 1 (R301). -/
  | ringFull
  /-- Code 2 (R302). -/
  | illegalCmd
  /-- Code 3 (R305). -/
  | badArg
  /-- Code 4 (R307). -/
  | order
  /-- Code 5 (R303). -/
  | cycOvf
  /-- Code 6 (R308): raised by nothing inside the block. -/
  | div0
deriving DecidableEq, Repr

/-- The sticky markers `ni` (10_state.md R51). -/
structure Markers where
  sweep  : Bool
  length : Bool
deriving DecidableEq, Repr

/-- The lock cell (10_state.md R60). -/
inductive Lock where
  | free
  | w
  | r
deriving DecidableEq, Repr

/-- An `EMU` under way between two of its cycles (41 R158, 20_memory.md R88): the cycles left and the OR of the fires. -/
structure EmuRun where
  left : Nat
  any  : Bool
deriving DecidableEq, Repr

/-- The hidden state of a render in progress (10_state.md R59): the frame index and the latched operands. -/
structure RenderRun where
  k      : Nat
  frames : Nat
  fs     : BitVec 32
  ref    : Cycle
deriving DecidableEq, Repr

/-- The MODEL's own fields, not the spec's (log 5, 6, 12): the inputs R62 names (the command words pending on each port,
the agents that step next) and two counters that only free values read. -/
structure Env where
  wPort    : List Word
  rPort    : List Word
  hostPort : List Word
  sched    : List Agent
  turn     : Nat
  resets   : Nat
deriving DecidableEq, Repr

/-- The state of one block instance. Field names are the spec's (`10_state.md`), `samples` is the spec's `S`. -/
structure State where
  /-- The parameters of the instance (00_scope.md R10, R12): constant, changed by no step (log 1). -/
  cfg     : Params
  /-- R31 -/
  cyc     : Cycle
  /-- R40: `reg[0]` to `reg[4]` -/
  reg     : Vector Byte 5
  /-- R32 -/
  period  : BitVec 14
  /-- R33 -/
  timer   : BitVec 14
  /-- R34 (`SQUARE`) -/
  volume  : BitVec 4
  /-- R35 (`SQUARE`) -/
  envCnt  : BitVec 3
  /-- R37 (`SQUARE`) -/
  dstep   : BitVec 3
  /-- R38 (`WAVE`) -/
  wstep   : BitVec 5
  /-- R56 (`WAVE`) -/
  wram    : Vector Byte 16
  /-- R39 -/
  resp    : Byte
  /-- R48 -/
  fired   : Bool
  /-- R49 -/
  wrValid : Bool
  /-- R51 -/
  ni      : Markers
  /-- R50 -/
  fault   : FaultCode
  /-- R52 -/
  ring    : Memory Record
  /-- R54 -/
  newest  : Nat
  /-- R54 -/
  oldest  : Nat
  /-- R54: `playbackWindowEnd` -/
  pwe     : Nat
  /-- R59 -/
  rc      : Nat
  /-- R58: `S` -/
  samples : Nat
  /-- R57: each frame an `i<OUT_W>`, kept as the signed number it is (log 3) -/
  out     : Memory Int
  /-- R60 -/
  lock    : Lock
  /-- The `EMU` under way, if any. -/
  emu     : Option EmuRun
  /-- The `RND` under way, if any (R59). -/
  render  : Option RenderRun
  /-- The model's own inputs and counters. -/
  env     : Env
deriving DecidableEq, Repr

/-- Host-level stops. The block's own faults (60_exceptions.md R300) are no stops: `raise` gives a next state (log 9). -/
inductive Fault where
  /-- Raised by `exec .rst` alone, when a transaction is under way on a port: outside the spec (60_exceptions.md R322,
  93 U20). `step` never gives it, since the host's turn waits for both agents to be idle. Safe (log 8). -/
  | resetUnderWay
deriving DecidableEq, Repr

/-- Refusals. -/
inductive Refusal where
  /-- An instruction without a meaning in this model, by its mnemonic. Raised by `exec`'s refused arms (there is none). Safe. -/
  | notModelled (mnemonic : String)
deriving DecidableEq, Repr

/-- Every piece of state of the table of 10_state.md R63 at its reset value, in an instance with parameters `cfg`, over an
output buffer and an environment, neither of which is block state (R57, R62). -/
def State.powerOn (cfg : Params) (out : Memory Int) (env : Env) : State where
  cfg     := cfg
  cyc     := 0
  reg     := Vector.replicate 5 0
  period  := 0
  timer   := 0
  volume  := 0
  envCnt  := 0
  dstep   := 0
  wstep   := 0
  wram    := cfg.wramReset
  resp    := 0
  fired   := false
  wrValid := false
  ni      := ⟨false, false⟩
  fault   := .none
  ring    := []
  newest  := 0
  oldest  := 0
  pwe     := 0
  rc      := 0
  samples := 0
  out     := out
  lock    := .free
  emu     := none
  render  := none
  env     := env

/-- No command pending, no schedule given (DESIGN CHOICE, log 5, 6). -/
def Env.initial : Env := ⟨[], [], [], [], 0, 0⟩

/-- The machine right after power-on with the default parameters (10_state.md R63; log 2). -/
def State.reset : State := State.powerOn Params.default [] Env.initial

end Sys2Proof.Machine
end

