-- ==== Sys2Proof/Machine/Ops.lean ====
section
/-! DEFINITION. The shared operations: storage, cursors, counters, registers, the lock, taking a fault, the halted state and the way out of it. -/

namespace Sys2Proof.Machine

/-! ### Signed numbers of a width that is a parameter (00_scope.md R10, R13) -/

/-- `x` is an `i<w>`: `-2^(w-1) <= x < 2^(w-1)`. -/
def fits (w : Nat) (x : Int) : Bool := decide (-(2 ^ (w - 1)) ≤ x ∧ x < 2 ^ (w - 1))

/-- The `i<w>` that is `x` modulo `2^w`: two's-complement wrap (44_renderer.md R237). -/
def narrow (w : Nat) (x : Int) : Int := Int.bmod x (2 ^ w)

/-! ### Storage -/

/-- What index `a` holds, if anything has written it. -/
def Memory.read {α : Type} (m : Memory α) (a : Nat) : Option α :=
  match m with
  | [] => none
  | (b, v) :: rest => if a = b then some v else Memory.read rest a

/-- Write index `a`, keeping the indices strictly rising. -/
def Memory.write {α : Type} (m : Memory α) (a : Nat) (v : α) : Memory α :=
  match m with
  | [] => [(a, v)]
  | (b, w) :: rest =>
    if a < b then (a, v) :: (b, w) :: rest
    else if a = b then (a, v) :: rest
    else (b, w) :: Memory.write rest a v

/-- The canonical form: indices strictly rising, so no index is listed twice. -/
def Memory.wf {α : Type} : Memory α → Bool
  | [] => true
  | (a, _) :: rest => rest.all (fun c => decide (a < c.1)) && Memory.wf rest

/-! ### Cursors: the cyclic index (40 R135, 00_scope.md R15) -/

/-- `i (+) 1` modulo `m`. -/
def cycInc (m i : Nat) : Nat := (i + 1) % m

/-- `i (-) 1` modulo `m`. -/
def cycDec (m i : Nat) : Nat := (i + m - 1) % m

/-- `dist(a, b) = (b - a) mod m`, for `a`, `b` in `[0, m)`. -/
def cycDist (m a b : Nat) : Nat := (b + m - a) % m

/-- "`a <= b <= c` cyclically" (00_scope.md R15). -/
def cycBetween (m a b c : Nat) : Bool := decide (cycDist m a b ≤ cycDist m a c)

/-- `c (+) 1` of the ring (00_scope.md R15). -/
def State.next (s : State) (c : Nat) : Nat := cycInc s.cfg.ringN c

/-- `c (-) 1` of the ring (00_scope.md R15). -/
def State.prev (s : State) (c : Nat) : Nat := cycDec s.cfg.ringN c

/-- `dist` of the ring (00_scope.md R15). -/
def State.dist (s : State) (a b : Nat) : Nat := cycDist s.cfg.ringN a b

/-! ### Taking a fault, the halted state, the way out (60_exceptions.md R304, R306, R311) -/

/-- Halted: `fault != 0` (R306). -/
def State.halted (s : State) : Bool := decide (s.fault ≠ .none)

/-- Fault entry, `raise X` (R304): the first fault is recorded, nothing else changes; the caller ends the transaction. -/
def raise (x : FaultCode) (s : State) : State :=
  if s.fault = .none then { s with fault := x } else s

/-- A transaction as a command sees it: refused without effect while the block is halted (R306, R16; log 10). -/
def transact (f : State → State) (s : State) : Host.Outcome State Fault Refusal :=
  .next (if s.halted then s else f s)

/-- A transaction only instances of kind `k` have: in the other kind it is no command, so `ILLEGAL_CMD` (30 R118, 45 R269,
R271; log 20 for the `WR` rows, which `decode` never gives in the other kind). -/
def forKind (k : ChKind) (f : State → State) (s : State) : State :=
  if s.cfg.kind = k then f s else raise .illegalCmd s

/-- A multi-step transaction is under way on a port of a running block (60 R322; a halted one continues none, R306). -/
def State.underWay (s : State) : Bool := !s.halted && (s.emu.isSome || s.render.isSome)

/-- `RST` (70 R340): every piece of state at its reset value; `out` and the ports are not block state and stay; the
content of the ring's slots is unspecified anew (log 12). -/
def resetBlock (s : State) : State :=
  State.powerOn s.cfg s.out { s.env with resets := s.env.resets + 1 }

/-! ### The lock (20_memory.md R84, R85) -/

/-- A critical section of agent W or R as one atomic step: take, run, release (R85; log 16: released after a raise too). -/
def locked (a : Lock) (f : State → State) (s : State) : State :=
  { f { s with lock := a } with lock := .free }

/-! ### The divider counter primitive (40 R131 to R133) -/

/-- `MODCNT(period, trig).increment` on a count: the new count and whether it fired; `DIV0` where `period = 0` (R133). -/
def modcntIncrement (period trig count : Nat) : Except FaultCode (Nat × Bool) :=
  if period = 0 then .error .div0
  else .ok ((count + 1) % period, decide ((count + 1) % period = trig))

/-! ### The cycle counter (40 R134, 60 R303) -/

/-- `advance(n)` would pass `2^63 - 1`. -/
def State.cycOverflows (s : State) (n : Nat) : Bool := decide (maxI64 < s.cyc.toInt + n)

/-- `cyc <- cyc + n`, where it does not overflow. -/
def advanceCyc (n : Nat) (s : State) : State := { s with cyc := BitVec.ofInt 64 (s.cyc.toInt + n) }

/-! ### Registers (10_state.md R40, 45 R262) -/

/-- `reg[i] <- d`. -/
def setReg (i : Fin 5) (d : Byte) (s : State) : State := { s with reg := s.reg.set i d }

/-- `resp <- b` (10_state.md R39). -/
def respond (b : Byte) (s : State) : State := { s with resp := b }

/-- `MemWrite(WRAM:i, 1, d)`. -/
def setWram (i : Fin 16) (d : Byte) (s : State) : State := { s with wram := s.wram.set i d }

/-! ### Ring slots (20_memory.md R76, R77) and output frames -/

/-- A record nothing has written: any record with an amplitude of `AMP_W` bits (10_state.md R53; log 12). -/
def State.deadSlot (s : State) (i : Nat) : Record :=
  let r := Config.deadRecord s.env.resets i
  { r with amp := narrow s.cfg.ampW r.amp }

/-- `MemRead(RING:i, 1)`: the whole record; a slot nothing has written since reset holds a free value (log 12). -/
def State.slot (s : State) (i : Nat) : Record :=
  match Memory.read s.ring i with
  | some r => r
  | none => s.deadSlot i

/-- `MemWrite(RING:i, 1, r)`. -/
def setSlot (i : Nat) (r : Record) (s : State) : State := { s with ring := Memory.write s.ring i r }

/-- `MemWrite(RING:i.close, 1, c)`: `end <- c` and `open <- 0` together, `start` and `amp` untouched (20_memory.md R77). -/
def closeSlot (i : Nat) (c : Cycle) (s : State) : State :=
  setSlot i { s.slot i with stop := c, isOpen := false } s

/-- `MemRead(OUT:k, 1)`: a frame nothing has written holds a free value (log 13). -/
def State.frame (s : State) (k : Nat) : Int :=
  match Memory.read s.out k with
  | some v => v
  | none => (Config.freeFrame s.cfg.outW k).toInt

/-- `MemWrite(OUT:k, 1, v)`. -/
def setFrame (k : Nat) (v : Int) (s : State) : State := { s with out := Memory.write s.out k v }

/-! ### Ports (00_scope.md R8, R9; the model's own fields) -/

/-- The words pending on a port. -/
def State.portWords (s : State) : Agent → List Word
  | .w => s.env.wPort
  | .r => s.env.rPort
  | .host => s.env.hostPort

/-- Replace the words pending on a port. -/
def setPort (a : Agent) (ws : List Word) (s : State) : State :=
  match a with
  | .w => { s with env := { s.env with wPort := ws } }
  | .r => { s with env := { s.env with rPort := ws } }
  | .host => { s with env := { s.env with hostPort := ws } }

/-- The agent that steps next: the schedule's choice, or a free one where the schedule gives none (R62; log 6). -/
def State.nextAgent (s : State) : Agent :=
  match s.env.sched with
  | a :: _ => a
  | [] => Config.freeAgent s.env.turn

/-- The choice of the agent is used up. -/
def takeTurn (s : State) : State :=
  match s.env.sched with
  | _ :: rest => { s with env := { s.env with sched := rest } }
  | [] => { s with env := { s.env with turn := s.env.turn + 1 } }

end Sys2Proof.Machine
end

