-- ==== Sys2Proof/Machine/Operands.lean ====
section
/-! DEFINITION. The fields of the register bytes (10_state.md R41 to R47, 30_encoding.md section 2) and of the wave table (20_memory.md R72). -/

namespace Sys2Proof.Machine

/-- `FDIV_MULT`, selected by the kind (00_scope.md R10, R12). -/
def fdivMult : ChKind → Nat
  | .square => 4
  | .wave => 2

/-- `code = {reg[4][2:0], reg[3][7:0]}` (R47, R71). -/
def State.code (s : State) : BitVec 11 := BitVec.ofNat 11 (s.reg[4].toNat % 8 * 256 + s.reg[3].toNat)

/-- Sweep period, `SWP[6:4]` (R41): stored, no effect. -/
def State.swpPeriod (s : State) : BitVec 3 := s.reg[0].extractLsb' 4 3

/-- Sweep direction, `SWP[3]` (R41): stored, no effect. -/
def State.swpDir (s : State) : Bool := s.reg[0].getLsbD 3

/-- Sweep shift count, `SWP[2:0]` (R41): stored, no effect. -/
def State.swpShift (s : State) : BitVec 3 := s.reg[0].extractLsb' 0 3

/-- `duty = LEN[7:6]` (R42). -/
def State.duty (s : State) : BitVec 2 := s.reg[1].extractLsb' 6 2

/-- `lenload = LEN[5:0]` (R42): stored, no effect. -/
def State.lenload (s : State) : BitVec 6 := s.reg[1].extractLsb' 0 6

/-- `env_init = ENV[7:4]` (R43). -/
def State.envInit (s : State) : BitVec 4 := s.reg[2].extractLsb' 4 4

/-- `env_dir = ENV[3]`, 1 = increase (R43, 42 R191). -/
def State.envDir (s : State) : Bool := s.reg[2].getLsbD 3

/-- `env_period = ENV[2:0]` (R43). -/
def State.envPeriod (s : State) : BitVec 3 := s.reg[2].extractLsb' 0 3

/-- `won = WON[7]` (R46). -/
def State.won (s : State) : Bool := s.reg[0].getLsbD 7

/-- `wvol = WVOL[6:5]` (R46). -/
def State.wvol (s : State) : BitVec 2 := s.reg[2].extractLsb' 5 2

/-- The initialize bit of a byte written to `FHI` (R45). -/
def fhiInit (d : Byte) : Bool := d.getLsbD 7

/-- The length-enable bit of a byte written to `FHI` (R45): no effect but the marker. -/
def fhiLenEn (d : Byte) : Bool := d.getLsbD 6

/-- Sample `n` of the wave table: byte `n >> 1`, the high nibble for an even `n` (20_memory.md R72). -/
def State.nibble (s : State) (n : BitVec 5) : BitVec 4 :=
  let b := s.wram[n.toNat / 2]
  if n.toNat % 2 = 0 then b.extractLsb' 4 4 else b.extractLsb' 0 4

end Sys2Proof.Machine
end

