-- ==== Sys2Proof/Machine/Flags.lean ====
section
/-! DEFINITION. The flags: `fired`, `wr_valid`, the fault code's number and the `ni` markers (10_state.md R48 to R51). -/

namespace Sys2Proof.Machine

/-- The 3-bit code of a fault (60_exceptions.md R300). -/
def FaultCode.code : FaultCode → BitVec 3
  | .none => 0
  | .ringFull => 1
  | .illegalCmd => 2
  | .badArg => 3
  | .order => 4
  | .cycOvf => 5
  | .div0 => 6

/-- `ni` as the spec numbers its bits: bit 0 `SWEEP`, bit 1 `LENGTH` (10_state.md R51). -/
def Markers.bits (m : Markers) : BitVec 2 := BitVec.ofNat 2 (m.length.toNat * 2 + m.sweep.toNat)

/-- `fired <- f` (10_state.md R48). -/
def setFired (f : Bool) (s : State) : State := { s with fired := f }

/-- `wr_valid <- 1` (10_state.md R49). -/
def markWritten (s : State) : State := { s with wrValid := true }

/-- `if d != 0: ni.SWEEP <- 1` (45 R260). -/
def markSweep (d : Byte) (s : State) : State :=
  if d = 0 then s else { s with ni := { s.ni with sweep := true } }

/-- `if d[6] == 1: ni.LENGTH <- 1` (41 R157). -/
def markLength (d : Byte) (s : State) : State :=
  if fhiLenEn d then { s with ni := { s.ni with length := true } } else s

end Sys2Proof.Machine
end

