-- ==== Sys2Proof/Machine/Envelope.lean ====
section
/-! DEFINITION. The envelope generator ENV (42_envelope.md): `WR ENV`, `ENVCLK`, and the reload a trigger performs. -/

namespace Sys2Proof.Machine

/-- Reload: `volume <- reg[2][7:4]`, `env_cnt <- 0` (R182, R183). -/
def reloadEnvelope (s : State) : State := { s with volume := s.envInit, envCnt := 0 }

/-- The clamped step of the volume (R185, R186). -/
def rampVolume (up : Bool) (v : BitVec 4) : BitVec 4 :=
  if up then (if v.toNat < 15 then v + 1 else v) else (if 0 < v.toNat then v - 1 else v)

/-- The volume steps in the register's direction. -/
def stepVolume (s : State) : State := { s with volume := rampVolume s.envDir s.volume }

/-- One envelope tick in a `SQUARE` instance (R185): nothing with period 0 (R188), else the divider advances and its wrap
steps the volume. `DIV0` cannot arise here, the guard comes first (40 R133). -/
def tickEnvelope (s : State) : State :=
  if s.envPeriod = 0 then s
  else
    match modcntIncrement s.envPeriod.toNat s.cfg.modcntTrig s.envCnt.toNat with
    | .error x => raise x s
    | .ok (count, wrapped) =>
      let s' := { s with envCnt := BitVec.ofNat 3 count }
      if wrapped then stepVolume s' else s'

/-- `WR ENV, d` (R182), `SQUARE` only. -/
def execWrEnv (d : Byte) (s : State) : Host.Outcome State Fault Refusal :=
  transact (forKind .square fun s => reloadEnvelope (setReg 2 d s)) s

/-- `ENVCLK` (R185); accepted and without effect in a `WAVE` instance (R189). -/
def execEnvclk (s : State) : Host.Outcome State Fault Refusal :=
  transact (fun s => match s.cfg.kind with | .square => tickEnvelope s | .wave => s) s

end Sys2Proof.Machine
end

