-- ==== Sys2Proof/Machine/Ring.lean ====
section
/-! DEFINITION. The timestamped event ring RING (43_event_ring.md): `INS`, `UPD`. -/

namespace Sys2Proof.Machine

/-- The most recently written record, in slot `newest (-) 1`; it exists iff `wr_valid = 1` (R202). -/
def State.lastRecord (s : State) : Record := s.slot (s.prev s.newest)

/-- The insertion is coalesced: the amplitude is the last record's (R204, R205). -/
def State.coalesces (s : State) (amp : Int) : Bool := s.wrValid && decide (s.lastRecord.amp = amp)

/-- The stamp is below the last record's `start` (R206). -/
def State.outOfOrder (s : State) (c : Cycle) : Bool := s.wrValid && decide (c.toInt < s.lastRecord.start.toInt)

/-- `newest (+) 1 = oldest` (R208). -/
def State.ringFull (s : State) : Bool := decide (s.next s.newest = s.oldest)

/-- Close the previous record, if there is one, at the new stamp (R202, R204). -/
def closeLast (c : Cycle) (s : State) : State := if s.wrValid then closeSlot (s.prev s.newest) c s else s

/-- Write the new open record at `newest` and advance `newest` (R204). -/
def appendRecord (amp : Int) (c : Cycle) (s : State) : State :=
  let s' := setSlot s.newest { start := c, stop := 0, isOpen := true, amp := amp } s
  { s' with newest := s.next s.newest }

/-- The body of `INS(amp, c)` (R204), its tests in the order of the pseudocode (60 R309), each before any write (R210). -/
def insertRecord (amp : Int) (c : Cycle) (s : State) : State :=
  if c.toInt < 0 then raise .badArg s
  else if s.coalesces amp then s
  else if s.outOfOrder c then raise .order s
  else if s.ringFull then raise .ringFull s
  else markWritten (appendRecord amp c (closeLast c s))

/-- `INS(amp, c)` as the one critical section it is (R204, 20_memory.md R85); also performed by `CYC`, `EMU`, `FDIVN` (R216). -/
def insertEvent (amp : Int) (c : Cycle) (s : State) : State := locked .w (insertRecord amp c) s

/-- The record in slot `oldest` is fully consumed at `ref` (R211, R212). -/
def State.consumed (s : State) (ref : Cycle) : Bool :=
  let e := s.slot s.oldest
  let nxt := s.next s.oldest
  if e.isOpen then decide (nxt ≠ s.newest) && decide ((s.slot nxt).start.toInt < ref.toInt)
  else decide (e.stop.toInt < ref.toInt)

/-- The loop of `UPD` (R212), at most `fuel` times. -/
def retire (ref : Cycle) (fuel : Nat) (s : State) : State :=
  match fuel with
  | 0 => s
  | fuel + 1 =>
    if s.oldest = s.newest then s
    else if s.consumed ref then retire ref fuel { s with oldest := s.next s.oldest }
    else s

/-- The body of `UPD ref` (R212, R214): retire, then the snapshot. The loop runs at most once a live record (20 R86). -/
def updateQueue (ref : Cycle) (s : State) : State :=
  let s' := retire ref (s.dist s.oldest s.newest) s
  { s' with pwe := s'.newest }

/-- The operand `amp` of `INS` (30_encoding.md R104): the byte read as `i8`, which is its sign extension to a wider `AMP_W`;
a free value where the narrower `AMP_W` cannot hold it (log 29). -/
def State.insAmp (s : State) (b : Byte) : Int :=
  if fits s.cfg.ampW b.toInt then b.toInt else (Config.freeAmp s.cfg.ampW b).toInt

/-- `INS amp, c` (R204). -/
def execIns (amp : Byte) (c : Cycle) (s : State) : Host.Outcome State Fault Refusal :=
  transact (fun s => insertEvent (s.insAmp amp) c s) s

/-- `UPD ref` (R212), one critical section. -/
def execUpd (ref : Cycle) (s : State) : Host.Outcome State Fault Refusal :=
  transact (locked .r (updateQueue ref)) s

end Sys2Proof.Machine
end

