-- ==== Sys2Proof/Machine/Source.lean ====
section
/-! DEFINITION. The amplitude sources SRC (45_channel_glue_and_facade.md R263, R264, R270, R272). -/

namespace Sys2Proof.Machine

/-- `thr(duty)`: 1, 2, 4, 6 (10_state.md R42). -/
def dutyThreshold (duty : BitVec 2) : Nat :=
  match duty.toNat with
  | 0 => 1
  | 1 => 2
  | 2 => 4
  | _ => 6

/-- `sq_amp(dstep, duty, volume)` as an integer (R263). -/
def squareAmp (dstep : BitVec 3) (duty : BitVec 2) (volume : BitVec 4) : Int :=
  if dstep.toNat < dutyThreshold duty then (volume.toNat : Int) else -(volume.toNat : Int)

/-- The wave amplitude of a nibble under the gate and the shift code (R270, R272): the signed sample `nib - 8`, shifted
right arithmetically by `vc - 1` (the floor of the division); 0 when off or muted. -/
def waveAmp (on : Bool) (vc : BitVec 2) (nib : BitVec 4) : Int :=
  if !on || vc.toNat = 0 then 0 else ((nib.toNat : Int) - 8) / 2 ^ (vc.toNat - 1)

/-- The step counter advances, modulo 8 or 32 (R264, R270). -/
def advanceStep (s : State) : State :=
  match s.cfg.kind with
  | .square => { s with dstep := s.dstep + 1 }
  | .wave => { s with wstep := s.wstep + 1 }

/-- The amplitude of the step the source is in, from the current registers and volume (R264, R270). It is stored as it is:
`AMP_W >= 5`, so every one fits `i<AMP_W>` (00_scope.md R11). -/
def State.sourceAmp (s : State) : Int :=
  match s.cfg.kind with
  | .square => squareAmp s.dstep s.duty s.volume
  | .wave => waveAmp s.won s.wvol (s.nibble s.wstep)

end Sys2Proof.Machine
end

