-- ==== Sys2Proof/Machine/Divider.lean ====
section
/-! DEFINITION. The frequency divider FDIV (41_frequency_divider.md): `WR FLO`, `WR FHI`, `CYC`, `EMU`, `FDIVN`. -/

namespace Sys2Proof.Machine

/-- `(2048 - code) * FDIV_MULT` (R151). -/
def periodOf (k : ChKind) (code : BitVec 11) : BitVec 14 := BitVec.ofNat 14 ((2048 - code.toNat) * fdivMult k)

/-- A write of `FLO` or `FHI` recomputes `period` (R151). -/
def recomputePeriod (s : State) : State := { s with period := periodOf s.cfg.kind s.code }

/-- The trigger (R152 (b), R157): `timer <- period`, and in a `SQUARE` instance the envelope's reload (42 R183). -/
def trigger (s : State) : State :=
  let s' := { s with timer := s.period }
  match s.cfg.kind with
  | .square => reloadEnvelope s'
  | .wave => s'

/-- What one tick leaves in `timer`, and whether it fired (R154). -/
structure TickResult where
  timer : BitVec 14
  fired : Bool
deriving DecidableEq, Repr

/-- One tick (R154), off while `period = 0` (R153). -/
def tick (period timer : BitVec 14) : TickResult :=
  if period = 0 then ⟨timer, false⟩
  else if timer.toNat ≤ 1 then ⟨period, true⟩
  else ⟨timer - 1, false⟩

/-- `n` ticks under one period, with the OR of the fires (R160). -/
def ticks (period : BitVec 14) (n : Nat) (r : TickResult) : TickResult :=
  match n with
  | 0 => r
  | n + 1 =>
    let t := tick period r.timer
    ticks period n ⟨t.timer, r.fired || t.fired⟩

/-- An underflow: one step of `SRC`, then one insertion of its amplitude stamped with `cyc` (45 R273, 43 R216), exactly as
R204 makes it, its test of the stamp included (log 17). -/
def underflow (s : State) : State :=
  let s' := advanceStep s
  insertEvent s'.sourceAmp s'.cyc s'

/-- What one emulated cycle leaves and whether it fired; after a fault the state is halted and `fired` is meaningless. -/
structure CycleResult where
  state : State
  fired : Bool

/-- One CPU cycle: the pseudocode of `CYC` but for its last line (R156). -/
def cycle (s : State) : CycleResult :=
  if s.cycOverflows 1 then ⟨raise .cycOvf s, false⟩
  else
    let t := tick s.period s.timer
    let s' := { advanceCyc 1 s with timer := t.timer }
    if t.fired then ⟨underflow s', true⟩ else ⟨s', false⟩

/-- The pseudocode of `CYC` (R156): `fired` is written unless the cycle faulted. -/
def oneCycle (s : State) : State :=
  let r := cycle s
  if r.state.halted then r.state else setFired r.fired r.state

/-- One of the cycles of an `EMU` (R158), one step of agent W (20_memory.md R88): a fault ends the transaction, the last
cycle writes `fired`, any other leaves the rest under way. -/
def emuCycle (e : EmuRun) (s : State) : State :=
  let r := cycle s
  if r.state.halted then { r.state with emu := none }
  else if e.left ≤ 1 then { setFired (e.any || r.fired) r.state with emu := none }
  else { r.state with emu := some ⟨e.left - 1, e.any || r.fired⟩ }

/-- The first step of `EMU n` (R158): its first cycle, or, with `n = 0`, `fired <- 0`. -/
def startEmu (n : Nat) (s : State) : State :=
  if n = 0 then setFired false s else emuCycle ⟨n, false⟩ s

/-- The batch form (R160): `n` ticks, then at most one underflow, stamped with the end of the batch. -/
def batch (n : Nat) (s : State) : State :=
  if s.cycOverflows n then raise .cycOvf s
  else
    let t := ticks s.period n ⟨s.timer, false⟩
    let s' := { advanceCyc n s with timer := t.timer }
    if t.fired then
      let s'' := underflow s'
      if s''.halted then s'' else setFired true s''
    else setFired false s'

/-- `WR FLO, d` (R155). -/
def execWrFlo (d : Byte) (s : State) : Host.Outcome State Fault Refusal :=
  transact (fun s => recomputePeriod (setReg 3 d s)) s

/-- The body of `WR FHI, d` (R157). -/
def writeFhi (d : Byte) (s : State) : State :=
  let s' := markLength d (recomputePeriod (setReg 4 d s))
  if fhiInit d then trigger s' else s'

/-- `WR FHI, d` (R157). -/
def execWrFhi (d : Byte) (s : State) : Host.Outcome State Fault Refusal := transact (writeFhi d) s

/-- `CYC` (R156). -/
def execCyc (s : State) : Host.Outcome State Fault Refusal := transact oneCycle s

/-- `EMU n` (R158): its first step; the cycles after it are steps of agent W (`emuCycle`, 20_memory.md R88; log 7). -/
def execEmu (n : BitVec 12) (s : State) : Host.Outcome State Fault Refusal := transact (startEmu n.toNat) s

/-- `FDIVN n` (R160). -/
def execFdivn (n : BitVec 12) (s : State) : Host.Outcome State Fault Refusal := transact (batch n.toNat) s

end Sys2Proof.Machine
end

