-- ==== Sys2Proof/Machine/Registers.lean ====
section
/-! DEFINITION. The remaining register and wave-table transactions (45_channel_glue_and_facade.md R260 to R262, R266 to R269, R271). -/

namespace Sys2Proof.Machine

/-- `WR SWP, d` (R260), `SQUARE` only. -/
def execWrSwp (d : Byte) (s : State) : Host.Outcome State Fault Refusal :=
  transact (forKind .square fun s => markSweep d (setReg 0 d s)) s

/-- `WR WON, d` (R266), `WAVE` only. -/
def execWrWon (d : Byte) (s : State) : Host.Outcome State Fault Refusal :=
  transact (forKind .wave (setReg 0 d)) s

/-- `WR LEN, d` (R261), `SQUARE` only. -/
def execWrLen (d : Byte) (s : State) : Host.Outcome State Fault Refusal :=
  transact (forKind .square (setReg 1 d)) s

/-- `WR WLEN, d` (R267), `WAVE` only. -/
def execWrWlen (d : Byte) (s : State) : Host.Outcome State Fault Refusal :=
  transact (forKind .wave (setReg 1 d)) s

/-- `WR WVOL, d` (R268), `WAVE` only. -/
def execWrWvol (d : Byte) (s : State) : Host.Outcome State Fault Refusal :=
  transact (forKind .wave (setReg 2 d)) s

/-- `resp <- reg[sel]`, and `ILLEGAL_CMD` for a select that does not exist (R262). -/
def readReg (sel : BitVec 3) (s : State) : State :=
  if h : sel.toNat < 5 then respond (s.reg[sel.toNat]) s else raise .illegalCmd s

/-- `RD sel` (R262). -/
def execRd (sel : BitVec 3) (s : State) : Host.Outcome State Fault Refusal := transact (readReg sel) s

/-- `WRW idx, d` (R269), `WAVE` only. -/
def execWrw (idx : BitVec 4) (d : Byte) (s : State) : Host.Outcome State Fault Refusal :=
  transact (forKind .wave (setWram idx.toFin d)) s

/-- `RDW idx` (R271), `WAVE` only. -/
def execRdw (idx : BitVec 4) (s : State) : Host.Outcome State Fault Refusal :=
  transact (forKind .wave fun s => respond (s.wram[idx.toNat]) s) s

end Sys2Proof.Machine
end

