-- ==== Sys2Proof/Machine/Renderer.lean ====
section
/-! DEFINITION. The renderer RND (44_renderer.md): `OCLR`, `RND` and the steps of a render. -/

namespace Sys2Proof.Machine

/-- `pos(k) = ref + floor(k * CPU_HZ / fs)`, in unbounded integers (R231). -/
def framePos (cpuHz : Nat) (fs : BitVec 32) (ref : Cycle) (k : Nat) : Int :=
  ref.toInt + ((k * cpuHz / fs.toNat : Nat) : Int)

/-- The `BAD_ARG` cases of `RND` (R241). -/
def State.badRender (s : State) (frames : Nat) (fs : BitVec 32) (ref : Cycle) : Bool :=
  decide (fs = 0) || (decide (0 < frames) && decide (maxI64 < framePos s.cfg.cpuHz fs ref (frames - 1)))

/-- The sample of a record: `sext(e.amp) * GAIN` (R235). -/
def State.sample (s : State) (e : Record) : Int := e.amp * s.cfg.gain

/-- Where the scan of a frame stops and what it contributes. -/
structure Scan where
  rc     : Nat
  sample : Int
deriving DecidableEq, Repr

/-- The loop of a frame step at position `p` from cursor `rc` (R234, R236), at most `fuel` records. -/
def scan (s : State) (p : Int) (fuel rc : Nat) : Scan :=
  match fuel with
  | 0 => ⟨rc, 0⟩
  | fuel + 1 =>
    if rc = s.pwe then ⟨rc, 0⟩
    else
      let e := s.slot rc
      if p < e.start.toInt then ⟨rc, 0⟩
      else if e.isOpen || decide (p < e.stop.toInt) then ⟨rc, s.sample e⟩
      else scan s p fuel (s.next rc)

/-- `out[k] + s` modulo `2^OUT_W` (R237). -/
def accumulate (outW : Nat) (v : Int) (x : Int) : Int := narrow outW (v + x)

/-- One frame step (R236): one atomic step, outside the lock. -/
def renderFrame (r : RenderRun) (s : State) : State :=
  let x := scan s (framePos s.cfg.cpuHz r.fs r.ref r.k) (s.dist s.rc s.pwe) s.rc
  let s' := setFrame r.k (accumulate s.cfg.outW (s.frame r.k) x.sample) s
  { s' with rc := x.rc, render := some { r with k := r.k + 1 } }

/-- The end step (R243): `S <- S + F`. -/
def renderEnd (r : RenderRun) (s : State) : State :=
  { s with samples := s.samples + r.frames, render := none }

/-- The next step of a render under way: a frame, or the end (20_memory.md R88). -/
def renderStep (r : RenderRun) (s : State) : State :=
  if r.k < r.frames then renderFrame r s else renderEnd r s

/-- The begin step (R233, R234): under the lock, `BAD_ARG` or `UPD(ref)`, and the scan cursor at `oldest`. -/
def beginRender (frames : Nat) (fs : BitVec 32) (ref : Cycle) (s : State) : State :=
  if s.badRender frames fs ref then raise .badArg s
  else
    let s' := updateQueue ref s
    { s' with rc := s'.oldest, render := some ⟨0, frames, fs, ref⟩ }

/-- `out[0..F-1] <- 0` (R232). -/
def clearFrames (frames : Nat) (s : State) : State :=
  match frames with
  | 0 => s
  | k + 1 => setFrame k 0 (clearFrames k s)

/-- `OCLR F` (R232). -/
def execOclr (frames : BitVec 12) (s : State) : Host.Outcome State Fault Refusal :=
  transact (clearFrames frames.toNat) s

/-- `RND F, fs, ref` (R234): its begin step; the frames and the end are steps of agent R (`renderStep`, 20_memory.md R88;
log 7). -/
def execRnd (frames : BitVec 12) (fs : BitVec 32) (ref : Cycle) (s : State) : Host.Outcome State Fault Refusal :=
  transact (locked .r (beginRender frames.toNat fs ref)) s

/-- `getCurrentPlaybackTime()`, the rational `S / fs` seconds; a pure function of `S`, not a transaction (R244,
00_scope.md R7). For `fs = 0`, to which the rules give no value, the model answers 0 (DESIGN CHOICE, log 28). -/
def State.playbackTime (s : State) (fs : Nat) : Rat := (s.samples : Rat) / (fs : Rat)

end Sys2Proof.Machine
end

