-- ==== Sys2Proof/Machine/System.lean ====
section
/-! DEFINITION. The system-class transactions: `NOP` (45 R274) and `RST` (70 R340). -/

namespace Sys2Proof.Machine

/-- `NOP` (R274). -/
def execNop (s : State) : Host.Outcome State Fault Refusal := transact (fun s => s) s

/-- `RST` (R340): the one command a halted block accepts. A reset with a transaction under way is outside the spec
(60 R322, 93 U20; log 8). -/
def execRst (s : State) : Host.Outcome State Fault Refusal :=
  if s.underWay then .fault .resetUnderWay else .next (resetBlock s)

end Sys2Proof.Machine
end

