-- ==== Sys2Proof/Machine/Dispatch.lean ====
section
/-! DEFINITION. One arm per transaction, each a call of its meaning. -/

namespace Sys2Proof.Machine

def exec (i : Instr) (s : State) : Host.Outcome State Fault Refusal :=
  match i with
  | .nop => Sys2Proof.Machine.execNop s
  | .wrSwp d => Sys2Proof.Machine.execWrSwp d s
  | .wrWon d => Sys2Proof.Machine.execWrWon d s
  | .wrLen d => Sys2Proof.Machine.execWrLen d s
  | .wrWlen d => Sys2Proof.Machine.execWrWlen d s
  | .wrEnv d => Sys2Proof.Machine.execWrEnv d s
  | .wrWvol d => Sys2Proof.Machine.execWrWvol d s
  | .wrFlo d => Sys2Proof.Machine.execWrFlo d s
  | .wrFhi d => Sys2Proof.Machine.execWrFhi d s
  | .rd sel => Sys2Proof.Machine.execRd sel s
  | .envclk => Sys2Proof.Machine.execEnvclk s
  | .cyc => Sys2Proof.Machine.execCyc s
  | .emu n => Sys2Proof.Machine.execEmu n s
  | .fdivn n => Sys2Proof.Machine.execFdivn n s
  | .ins amp c => Sys2Proof.Machine.execIns amp c s
  | .upd ref => Sys2Proof.Machine.execUpd ref s
  | .rnd frames fs ref => Sys2Proof.Machine.execRnd frames fs ref s
  | .wrw idx d => Sys2Proof.Machine.execWrw idx d s
  | .rdw idx => Sys2Proof.Machine.execRdw idx s
  | .oclr frames => Sys2Proof.Machine.execOclr frames s
  | .rst => Sys2Proof.Machine.execRst s

end Sys2Proof.Machine
end

