-- ==== Sys2Proof/Machine/Agents.lean ====
section
/-! DEFINITION. The turns of the three agents (00_scope.md R9, 20_memory.md R88, 60_exceptions.md R306, R320, R322): fetching a command from a port, continuing a transaction under way, refusing while halted. -/

namespace Sys2Proof.Machine

/-- The first command of the port is consumed and not decoded (R306; log 11). -/
def dropCommand (a : Agent) (s : State) : State := setPort a (afterCommand (s.portWords a)) s

/-- The agent starts the first command of its port: an illegal one raises `ILLEGAL_CMD` before anything else changes
(60 R302, R309); with nothing pending the turn is idle (log 6). -/
def startCommand (a : Agent) (s : State) : Host.Outcome State Fault Refusal :=
  match s.portWords a with
  | [] => .next s
  | h :: ws =>
    match decodeOn s.cfg.kind a (h :: ws) with
    | .ok (i, rest) => exec i (setPort a rest s)
    | .error _ => .next (raise .illegalCmd (dropCommand a s))

/-- A step of agent W: while halted an `EMU` under way is cut off or a command refused (R306); else the next cycle of the
`EMU` under way, or the next command. -/
def turnW (s : State) : Host.Outcome State Fault Refusal :=
  match s.halted, s.emu with
  | true, some _ => .next { s with emu := none }
  | true, none => .next (dropCommand .w s)
  | false, some e => .next (emuCycle e s)
  | false, none => startCommand .w s

/-- A step of agent R, in the same way with the render under way. -/
def turnR (s : State) : Host.Outcome State Fault Refusal :=
  match s.halted, s.render with
  | true, some _ => .next { s with render := none }
  | true, none => .next (dropCommand .r s)
  | false, some r => .next (renderStep r s)
  | false, none => startCommand .r s

/-- A step of the host: `RST` waits until both agents are idle (R322; log 8) and is accepted by a halted block; any
other head is refused while halted and is otherwise a command on the wrong port (R306, 30 R122). -/
def turnHost (s : State) : Host.Outcome State Fault Refusal :=
  match s.portWords .host with
  | [] => .next s
  | h :: _ =>
    if h = 0xF000 then (if s.underWay then .next s else execRst (dropCommand .host s))
    else if s.halted then .next (dropCommand .host s)
    else startCommand .host s

/-- A step of an agent. -/
def agentTurn (a : Agent) (s : State) : Host.Outcome State Fault Refusal :=
  match a with
  | .w => turnW s
  | .r => turnR s
  | .host => turnHost s

/-! ### Placing an instruction (for the host's question about each row of the opcode table; log 5, 19) -/

/-- The port a first word belongs to: R for `UPD`, `RND`, `OCLR`, the host for `RST`, else W. -/
def portOf (ws : List Word) : Agent :=
  match ws with
  | [] => .w
  | h :: _ =>
    match (opOf h).toNat with
    | 0x8 => .r
    | 0x9 => .r
    | 0xC => .r
    | 0xF => .host
    | _ => .w

/-- The instance is of a kind that has the command, no transaction is under way, the words stand first on the port and
that port steps next. -/
def placeCommand (ws : List Word) (s : State) : State :=
  let p := portOf ws
  let s1 := setPort p (ws ++ s.portWords p) s
  { s1 with
    cfg := { s.cfg with kind := tableKind s.cfg.kind ws }
    emu := none
    render := none
    env := { s1.env with sched := p :: s.env.sched } }

end Sys2Proof.Machine
end

