-- ==== Sys2Proof/Machine/Step.lean ====
section
/-! DEFINITION. One step of the block: the agent whose turn it is steps (20_memory.md R88, 10_state.md R62). -/

namespace Sys2Proof.Machine

/-- One step. -/
def step (s : State) : Host.Outcome State Fault Refusal := agentTurn s.nextAgent (takeTurn s)

/-- `s` with an instruction of the opcode table placed where the next step fetches it: first on its port, that port next. -/
def State.withFetchWord (s : State) (nbits w : Nat) : State := placeCommand (tableWords nbits w) s

end Sys2Proof.Machine
end

