-- ==== Sys2Proof/Machine/Facade.lean ====
section
/-! DEFINITION. The environment at the block's boundary: the facade's operations as sequences of commands (45_channel_glue_and_facade.md R275 to R286, 44_renderer.md R244 to R246). Outside the block (00_scope.md R6); no step uses it. -/

namespace Sys2Proof.Machine

/-- `FSEQ_PERIOD = CPU_HZ / FSEQ_HZ`, the frame sequencer's period in cycles (00_scope.md R10, 40 R137, 45 R281). The rules
give no rounding and no bound on `FSEQ_HZ`: where it does not divide `CPU_HZ` the model takes the floor (0 for
`FSEQ_HZ > CPU_HZ`), and for `FSEQ_HZ = 0` the period 0; with period 0 no tick is ever due (DESIGN CHOICE, log 28). -/
def fseqPeriod (p : Params) : Nat := p.cpuHz / p.fseqHz

/-- What a routed bus access reaches inside an instance (R276). -/
inductive FacadeTarget where
  | register (sel : Nat)
  | waveByte (idx : BitVec 4)
deriving DecidableEq, Repr

/-- The `WR` of a select in an instance of kind `k` (30_encoding.md R105); no command for a select that does not exist. -/
def wrInstr (k : ChKind) (sel : Nat) (d : Byte) : Option Instr :=
  match sel, k with
  | 0, .square => some (.wrSwp d)
  | 0, .wave => some (.wrWon d)
  | 1, .square => some (.wrLen d)
  | 1, .wave => some (.wrWlen d)
  | 2, .square => some (.wrEnv d)
  | 2, .wave => some (.wrWvol d)
  | 3, _ => some (.wrFlo d)
  | 4, _ => some (.wrFhi d)
  | _, _ => none

/-- `writeByte` toward a block: masked centrally while the master bit is clear, the wave-table window excepted (R276, R277). -/
def facadeWrite (k : ChKind) (masterOn : Bool) (t : FacadeTarget) (d : Byte) : List Instr :=
  match t with
  | .waveByte idx => [.wrw idx d]
  | .register sel => if masterOn then (wrInstr k sel d).toList else []

/-- `readByte` toward a block, masked in the same way (R276, R277); the value returned is then `resp`. -/
def facadeRead (masterOn : Bool) (t : FacadeTarget) : List Instr :=
  match t with
  | .waveByte idx => [.rdw idx]
  | .register sel => if masterOn && decide (sel ≤ 4) then [.rd (BitVec.ofNat 3 sel)] else []

/-- An envelope tick is due in the cycle that brings the count to `c`: one every `FSEQ_PERIOD * ENV_DIV` cycles (R281;
the phase is not in the document: PRESUMED, log 21). The rules give no bound on `ENV_DIV` (R10, R11): for `ENV_DIV = 0`, as
for a `FSEQ_PERIOD` of 0, no tick is ever due in a cycle after reset (DESIGN CHOICE, log 28). -/
def envTickDue (p : Params) (c : Nat) : Bool := decide (c % (fseqPeriod p * p.envDiv) = 0)

/-- `emulate(nbCycles)` toward a block that has counted `c` cycles: per cycle the `ENVCLK` due in it, if any, then one
`CYC` (R279, 20_memory.md R79). Whether the facade stops sending them while the master bit is clear is not in the document
(60_exceptions.md R328, 91 N12): the model's facade always sends them (DESIGN CHOICE, log 28). -/
def facadeEmulate (p : Params) (c : Nat) (n : Nat) : List Instr :=
  (List.range n).flatMap fun j => (if envTickDue p (c + j + 1) then [.envclk] else []) ++ [.cyc]

/-- The reference position of a callback: `floor(S * CPU_HZ / fs)`, from the running total (44 R245). For `fs = 0` the rule
gives no value and the model takes 0 (DESIGN CHOICE, log 28); the `RND` is `BAD_ARG` then whatever it carries (R241). -/
def referencePosition (s : State) (fs : Nat) : Nat := s.samples * s.cfg.cpuHz / fs

/-- The audio callback toward one instance: clear, then render (44 R246, 45 R282). The rules do not say what the environment
sends when the reference position exceeds the `i64` operand: the model sends it modulo `2^64`, so that the block reads a
value from `2^63` on as negative (DESIGN CHOICE, log 28). -/
def facadeCallback (s : State) (frames : BitVec 12) (fs : BitVec 32) : List Instr :=
  [.oclr frames, .rnd frames fs (BitVec.ofNat 64 (referencePosition s fs.toNat))]

/-- The emulated CPU's elapsed time in seconds, which the driver's throttle compares with the playback time (R285). -/
def elapsedTime (s : State) : Rat := (s.cyc.toInt : Rat) / (s.cfg.cpuHz : Rat)

end Sys2Proof.Machine
end

