-- ==== Sys2Proof/Safety.lean ====
section
/-! DEFINITION. What claims speak in: a running block, runs of several steps, live records, the invariants of the spec, and what each agent can see. -/

namespace Sys2Proof.Machine

/-! ### Running and runs -/

/-- Not halted (60_exceptions.md R306). -/
def State.Running (s : State) : Prop := s.fault = .none

/-- Agent W has no transaction under way and agent R has none (60_exceptions.md R322). -/
def State.Idle (s : State) : Prop := s.emu = none ∧ s.render = none

/-- Port `a` starts a new command at its next turn: no transaction of that agent is under way. -/
def State.PortFree (s : State) : Agent → Prop
  | .w => s.emu = none
  | .r => s.render = none
  | .host => True

/-- `n` steps, stopping at the first that does not answer a next state. -/
def steps : Nat → State → Host.Outcome State Fault Refusal
  | 0, s => .next s
  | n + 1, s =>
    match step s with
    | .next t => steps n t
    | .fault x => .fault x
    | .refused x => .refused x

/-- The environment gives the next `n` turns to agent `a`. -/
def withTurns (a : Agent) (n : Nat) (s : State) : State :=
  { s with env := { s.env with sched := List.replicate n a ++ s.env.sched } }

/-- The number of fires in `n` ticks from `timer` under one period (41 R161). -/
def fireCount (period : BitVec 14) : Nat → BitVec 14 → Nat
  | 0, _ => 0
  | n + 1, timer => (if (tick period timer).fired then 1 else 0) + fireCount period n (tick period timer).timer

/-- `n` times `CYC`, up to the first fault: the state they leave, and whether one of them fired (41 R158). -/
def cycRun : Nat → State → State × Bool
  | 0, s => (s, false)
  | n + 1, s =>
    let t := oneCycle s
    if t.halted then (t, false) else ((cycRun n t).1, t.fired || (cycRun n t).2)

/-- The instructions one after the other, each from the state the one before left. -/
def runInstrs : List Instr → State → Host.Outcome State Fault Refusal
  | [], s => .next s
  | i :: is, s =>
    match exec i s with
    | .next t => runInstrs is t
    | .fault x => .fault x
    | .refused x => .refused x

/-- The next step starts the command `i`: the port of the agent whose turn it is decodes to it, that agent has no
transaction under way, and the block is running, or, for `RST`, no transaction is under way in a running block
(60_exceptions.md R306, R320, R322). -/
structure State.startsCommand (s : State) (i : Instr) : Prop where
  decoded : ∃ rest, decodeOn s.cfg.kind s.nextAgent (s.portWords s.nextAgent) = .ok (i, rest)
  free    : s.PortFree s.nextAgent
  runs    : s.Running ∨ i = .rst
  idle    : i = .rst → s.Running → s.Idle

/-- The head words the rules list as illegal on every port of an instance of kind `k` (30_encoding.md R118, R119, R120). -/
def illegalHead (k : ChKind) (h : Word) : Prop :=
  -- R118: no such register, no wave table
  (0x1500 ≤ h.toNat ∧ h.toNat ≤ 0x1FFF) ∨ (0x2500 ≤ h.toNat ∧ h.toNat ≤ 0x2FFF) ∨
  (k = .square ∧ 0xA000 ≤ h.toNat ∧ h.toNat ≤ 0xBFFF) ∨
  -- R119: reserved opcodes
  (0xD000 ≤ h.toNat ∧ h.toNat ≤ 0xEFFF) ∨
  -- R120: must-be-zero fields
  (0x0001 ≤ h.toNat ∧ h.toNat ≤ 0x0FFF) ∨
  (0x2000 ≤ h.toNat ∧ h.toNat ≤ 0x2FFF ∧ h.toNat % 256 ≠ 0) ∨
  (0xB000 ≤ h.toNat ∧ h.toNat ≤ 0xBFFF ∧ h.toNat % 256 ≠ 0) ∨
  (0x3001 ≤ h.toNat ∧ h.toNat ≤ 0x3FFF) ∨ (0x4001 ≤ h.toNat ∧ h.toNat ≤ 0x4FFF) ∨
  (0x7100 ≤ h.toNat ∧ h.toNat ≤ 0x7FFF) ∨ (0x8001 ≤ h.toNat ∧ h.toNat ≤ 0x8FFF) ∨
  (0xF001 ≤ h.toNat ∧ h.toNat ≤ 0xFFFF)

/-- `s` after `n` cycles that end in an underflow, before its insertion: the count advanced, `timer` as given, one step of
the kind's step counter (41_frequency_divider.md R156, R160; 45 R264, R270). -/
def atUnderflow (n : Nat) (timer : BitVec 14) (s : State) : State :=
  { s with
    cyc   := s.cyc + BitVec.ofNat 64 n
    timer := timer
    dstep := if s.cfg.kind = .square then s.dstep + 1 else s.dstep
    wstep := if s.cfg.kind = .wave then s.wstep + 1 else s.wstep }

/-- Every piece of state of the table of 10_state.md R63 has its reset value. -/
structure State.AtReset (s : State) : Prop where
  cyc     : s.cyc = 0
  reg     : ∀ m : Fin 5, s.reg[m] = 0
  code    : s.code = 0
  period  : s.period = 0
  timer   : s.timer = 0
  volume  : s.volume = 0
  envCnt  : s.envCnt = 0
  dstep   : s.dstep = 0
  wstep   : s.wstep = 0
  wram    : s.wram = s.cfg.wramReset
  resp    : s.resp = 0
  fired   : s.fired = false
  ni      : s.ni.bits = 0
  wrValid : s.wrValid = false
  newest  : s.newest = 0
  oldest  : s.oldest = 0
  pwe     : s.pwe = 0
  rc      : s.rc = 0
  samples : s.samples = 0
  ring    : ∀ a, Memory.read s.ring a = none
  fault   : s.fault.code = 0
  lock    : s.lock = .free
  emu     : s.emu = none
  render  : s.render = none

/-! ### Live records (00_scope.md R19, 10_state.md R55) -/

/-- The number of live records. -/
def State.live (s : State) : Nat := s.dist s.oldest s.newest

/-- The slot of the `j`-th live record, counted from `oldest`. -/
def State.liveSlot (s : State) (j : Nat) : Nat := (s.oldest + j) % s.cfg.ringN

/-- The `j`-th live record. -/
def State.liveRecord (s : State) (j : Nat) : Record := s.slot (s.liveSlot j)

/-- An insertion of amplitude `amp` stamped `c` does not fault: it is coalesced, or in order with a slot free (43 R204). -/
def State.insertionFits (s : State) (amp : Int) (c : Cycle) : Prop :=
  0 ≤ c.toInt ∧ (s.coalesces amp = true ∨ s.outOfOrder c = false ∧ s.ringFull = false)

/-- What the cycle `e` of an `EMU` does to `s`, `out` being the answer (41 R158, R156; 60 R301, R303 apart): without an
underflow, with an underflow whose insertion fits, and with one that finds the ring full. The last cycle writes `fired`,
any other leaves the rest under way, a fault ends the transaction. -/
structure EmuCycleEffect (e : EmuRun) (s : State) (out : Host.Outcome State Fault Refusal) : Prop where
  quiet : (s.period = 0 ∨ 2 ≤ s.timer.toNat) →
    out = .next { s with
      cyc := s.cyc + 1
      timer := if s.period = 0 then s.timer else s.timer - 1
      fired := if e.left ≤ 1 then e.any else s.fired
      emu := if e.left ≤ 1 then none else some ⟨e.left - 1, e.any⟩ }
  underflow : s.period ≠ 0 → s.timer.toNat ≤ 1 →
    let u := atUnderflow 1 s.period s
    u.insertionFits u.sourceAmp u.cyc →
      ∃ v : State, exec (.ins (BitVec.ofInt 8 u.sourceAmp) u.cyc) u = .next v ∧ out = .next { v with
        fired := if e.left ≤ 1 then true else s.fired
        emu := if e.left ≤ 1 then none else some ⟨e.left - 1, true⟩ }
  full : s.period ≠ 0 → s.timer.toNat ≤ 1 →
    let u := atUnderflow 1 s.period s
    0 ≤ u.cyc.toInt → u.coalesces u.sourceAmp = false → u.outOfOrder u.cyc = false → u.ringFull = true →
      out = .next { u with fault := .ringFull, emu := none }

/-- The `j`-th live record is fully consumed at `ref` (43 R211, R212). -/
def State.liveConsumed (s : State) (ref : Cycle) (j : Nat) : Prop :=
  if (s.liveRecord j).isOpen = true then j + 1 ≠ s.live ∧ (s.liveRecord (j + 1)).start.toInt < ref.toInt
  else (s.liveRecord j).stop.toInt < ref.toInt

/-- The record covers position `p` (10_state.md R53). -/
def covers (e : Record) (p : Int) : Bool :=
  decide (e.start.toInt ≤ p) && (e.isOpen || decide (p < e.stop.toInt))

/-- The sample at position `p` of the window `[oldest, pwe)`: that of "the event whose interval contains that position",
else silence (44_renderer.md R235, R236, R239). -/
def State.windowSample (s : State) (p : Int) : Int :=
  match (List.range (s.dist s.oldest s.pwe)).find? fun j => covers (s.liveRecord j) p with
  | some j => s.sample (s.liveRecord j)
  | none => 0

/-! ### Invariants -/

/-- All three cursors are in `[0, RING_N)` (10_state.md R54). -/
structure State.CursorsInRange (s : State) : Prop where
  newest_lt : s.newest < s.cfg.ringN
  oldest_lt : s.oldest < s.cfg.ringN
  pwe_lt    : s.pwe < s.cfg.ringN

/-- The invariants of the ring (10_state.md R55), item by item. -/
structure State.RingInv (s : State) : Prop where
  /-- The cursors are ring cursors (R54). -/
  range     : s.CursorsInRange
  /-- Item 1. -/
  window    : s.dist s.oldest s.pwe ≤ s.dist s.oldest s.newest
  /-- Item 2. -/
  capacity  : s.live ≤ s.cfg.ringN - 1
  /-- Item 3: the live slots hold written records. -/
  written   : ∀ j, j < s.live → (Memory.read s.ring (s.liveSlot j)).isSome = true
  /-- Item 4: exactly the last live record is open. -/
  lastOpen  : ∀ j, j < s.live → (s.liveRecord j).isOpen = decide (j + 1 = s.live)
  /-- Item 5: consecutive live records abut and their starts do not decrease. -/
  abut      : ∀ j, j + 1 < s.live → (s.liveRecord j).stop = (s.liveRecord (j + 1)).start ∧
                (s.liveRecord j).start.toInt ≤ (s.liveRecord (j + 1)).start.toInt
  /-- Item 6: consecutive live records have different amplitudes. -/
  distinct  : ∀ j, j + 1 < s.live → (s.liveRecord j).amp ≠ (s.liveRecord (j + 1)).amp
  /-- Item 7, and that nothing is live before the first record. -/
  lastKept  : s.wrValid = true ↔ s.oldest ≠ s.newest

/-- A render under way has a legal sample rate, is at one of its frames and its scan cursor is in the window (R59). -/
def State.RenderInv (s : State) : Prop :=
  ∀ r, s.render = some r →
    r.fs ≠ 0 ∧ r.k ≤ r.frames ∧ s.rc < s.cfg.ringN ∧ s.dist s.oldest s.rc ≤ s.dist s.oldest s.pwe

/-- `period` is 0 (off, before the first frequency write) or the formula's value of the current code; `timer` is in its
range (10_state.md R32, R33; 41_frequency_divider.md R153, R163). -/
def State.DividerInv (s : State) : Prop :=
  (s.period = 0 ∨ s.period.toNat = (2048 - s.code.toNat) * fdivMult s.cfg.kind) ∧ s.timer.toNat ≤ 8192

/-- `env_cnt = 0` or `env_cnt < reg[2][2:0]` in a `SQUARE` instance (10_state.md R35). -/
def State.EnvelopeInv (s : State) : Prop :=
  s.cfg.kind = .square → s.envCnt = 0 ∨ s.envCnt.toNat < s.envPeriod.toNat

/-- State a kind does not have stays as reset left it (10_state.md R34, R35, R37, R38, R56; log 22). -/
def State.AbsentInv (s : State) : Prop :=
  (s.cfg.kind = .wave → s.volume = 0 ∧ s.envCnt = 0 ∧ s.dstep = 0) ∧
  (s.cfg.kind = .square → s.wstep = 0 ∧ s.wram = s.cfg.wramReset)

/-- No record is stamped later than `cyc`; kept by the insertions of `CYC`, `EMU` and `FDIVN` (43_event_ring.md R206, R216). -/
def State.StampInv (s : State) : Prop := s.wrValid = true → s.lastRecord.start.toInt ≤ s.cyc.toInt

/-- The records the scan cursor has passed cover no position from `p` on (44_renderer.md R238). -/
def State.PassedFor (s : State) (p : Int) : Prop :=
  ∀ j, j < s.dist s.oldest s.rc → ∀ q, p ≤ q → covers (s.liveRecord j) q = false

/-- `cyc` is never negative (10_state.md R31). -/
def State.CycInv (s : State) : Prop := 0 ≤ s.cyc.toInt

/-- Every record listed has an amplitude of `AMP_W` bits and every frame listed has `OUT_W` bits (10_state.md R53, R57). -/
def State.WidthInv (s : State) : Prop :=
  s.ring.all (fun c => fits s.cfg.ampW c.2.amp) = true ∧ s.out.all (fun c => fits s.cfg.outW c.2) = true

/-- Ring and output storage are in canonical form. -/
def State.StorageInv (s : State) : Prop := Memory.wf s.ring = true ∧ Memory.wf s.out = true

/-! ### What an agent can see (10_state.md R30, 20_memory.md R93, 60_exceptions.md R321) -/

/-- Two states agree on everything agent R reads: domain A state, the ring, `newest`, `fault`, R's port, the parameters. -/
structure AgreeForR (s t : State) : Prop where
  cfg     : s.cfg = t.cfg
  fault   : s.fault = t.fault
  ring    : s.ring = t.ring
  newest  : s.newest = t.newest
  oldest  : s.oldest = t.oldest
  pwe     : s.pwe = t.pwe
  rc      : s.rc = t.rc
  samples : s.samples = t.samples
  out     : s.out = t.out
  render  : s.render = t.render
  port    : s.env.rPort = t.env.rPort
  resets  : s.env.resets = t.env.resets

/-- Two states agree on everything agent W reads: domain E state, the ring, `oldest`, `fault`, W's port, the parameters. -/
structure AgreeForW (s t : State) : Prop where
  cfg     : s.cfg = t.cfg
  fault   : s.fault = t.fault
  ring    : s.ring = t.ring
  newest  : s.newest = t.newest
  oldest  : s.oldest = t.oldest
  wrValid : s.wrValid = t.wrValid
  cyc     : s.cyc = t.cyc
  reg     : s.reg = t.reg
  period  : s.period = t.period
  timer   : s.timer = t.timer
  volume  : s.volume = t.volume
  envCnt  : s.envCnt = t.envCnt
  dstep   : s.dstep = t.dstep
  wstep   : s.wstep = t.wstep
  wram    : s.wram = t.wram
  resp    : s.resp = t.resp
  fired   : s.fired = t.fired
  ni      : s.ni = t.ni
  emu     : s.emu = t.emu
  port    : s.env.wPort = t.env.wPort
  resets  : s.env.resets = t.env.resets

/-- Two states that differ at most in the content of ring slots that are not live (10_state.md R55 item 3). -/
structure AgreeButDead (s t : State) : Prop where
  rest : t = { s with ring := t.ring }
  live : ∀ j, j < s.live → s.liveRecord j = t.liveRecord j

end Sys2Proof.Machine
end

