-- ==== Sys2Proof/Certificates/Slice0/Obligations.lean ====
section
/-! DEFINITION. The statements for the provers. -/

section

open Sys2Proof Sys2Proof.Machine

/-! ### Encoding (30_encoding.md) -/

/-- Words written out from R105 and from the worked examples of the spec decode to the commands they stand for. -/
def Obligations.EncodedWordsDecode : Prop :=
  decode .square [0x0000] = .ok (.nop, []) ∧
  decode .square [0x1011] = .ok (.wrSwp 0x11, []) ∧
  decode .wave [0x1080] = .ok (.wrWon 0x80, []) ∧
  decode .square [0x1180] = .ok (.wrLen 0x80, []) ∧
  decode .wave [0x11FF] = .ok (.wrWlen 0xFF, []) ∧
  decode .square [0x12F0] = .ok (.wrEnv 0xF0, []) ∧
  decode .wave [0x1220] = .ok (.wrWvol 0x20, []) ∧
  decode .square [0x13FF] = .ok (.wrFlo 0xFF, []) ∧
  decode .square [0x1487] = .ok (.wrFhi 0x87, []) ∧
  decode .square [0x2400] = .ok (.rd 4, []) ∧
  decode .square [0x3000] = .ok (.envclk, []) ∧
  decode .square [0x4000] = .ok (.cyc, []) ∧
  decode .square [0x5009] = .ok (.emu 9, []) ∧
  decode .square [0x600A] = .ok (.fdivn 10, []) ∧
  decode .square [0x7005, 0x000A, 0x0000, 0x0000, 0x0000] = .ok (.ins 5 10, []) ∧
  decode .square [0x70FB, 0x001E, 0x0000, 0x0000, 0x0000, 0x4000] = .ok (.ins (-5) 30, [0x4000]) ∧
  decode .square [0x8000, 0x0004, 0x0003, 0x0002, 0x8001] = .ok (.upd 0x8001000200030004, []) ∧
  decode .square [0x9006, 0x0000, 0x0001, 0x0000, 0x0000, 0x0000, 0x0000] = .ok (.rnd 6 65536 0, []) ∧
  decode .wave [0xA001] = .ok (.wrw 0 1, []) ∧
  decode .wave [0xB300] = .ok (.rdw 3, []) ∧
  decode .square [0xC006] = .ok (.oclr 6, []) ∧
  decode .square [0xF000] = .ok (.rst, [])

/-- Decoding the words of a command of the kind gives the command and the rest of the stream, for every operand value. -/
def Obligations.DecodeOfEncode : Prop :=
  ∀ (k : ChKind) (i : Instr) (rest : List Word), i.wellFormed k = true → decode k (encode i ++ rest) = .ok (i, rest)

/-- The other direction: a command has one encoding, the words it was read from, and is well-formed (R124). -/
def Obligations.EncodeOfDecode : Prop :=
  ∀ (k : ChKind) (ws rest : List Word) (i : Instr),
    decode k ws = .ok (i, rest) → ws = encode i ++ rest ∧ i.wellFormed k = true

/-- The opcode map decides (R105, R127): within one kind no head selects two rows; a head whose extension words are all
there is a command exactly when it selects a row and is not one of `RD`'s heads with a select above 4; the row gives
the length and the ports. -/
def Obligations.OpcodeMapDecides : Prop :=
  (∀ (k : ChKind) (h : Word) (p q : OpRow), p ∈ rowsFor k → q ∈ rowsFor k →
    rowSelects p h = true → rowSelects q h = true → p = q) ∧
  (∀ (k : ChKind) (h : Word) (ws : List Word), extWords (opOf h) ≤ ws.length →
    ((∃ i rest, decode k (h :: ws) = .ok (i, rest)) ↔
      (∃ p, p ∈ rowsFor k ∧ rowSelects p h = true) ∧ isDeadRd h = false)) ∧
  (∀ (k : ChKind) (h : Word) (ws rest : List Word) (i : Instr) (p : OpRow), decode k (h :: ws) = .ok (i, rest) →
    p ∈ rowsFor k → rowSelects p h = true →
    rest = ws.drop p.ext ∧ p.ext ≤ ws.length ∧ ∀ a : Agent, a.owns i = p.ports.contains a)

/-- An illegal head on any port of a running block raises `ILLEGAL_CMD` and nothing else of the block changes (R118 to R120).
Which words it takes off the port is the model's choice, DEDUCED in log 11. -/
def Obligations.IllegalHeadIsRaised : Prop :=
  ∀ (s : State) (a : Agent) (h : Word) (ws : List Word), s.Running → s.PortFree a → s.portWords a = h :: ws →
    illegalHead s.cfg.kind h →
    agentTurn a s = .next { dropCommand a s with fault := .illegalCmd }

/-- A command on the port of an agent that does not own it raises `ILLEGAL_CMD` (R122). That it is taken off the port with
its extension words is the model's choice, DEDUCED in log 11. -/
def Obligations.WrongPortIsRaised : Prop :=
  ∀ (s : State) (a : Agent) (i : Instr) (rest : List Word), s.Running → s.PortFree a →
    decode s.cfg.kind (s.portWords a) = .ok (i, rest) → a.owns i = false →
    agentTurn a s = .next { dropCommand a s with fault := .illegalCmd }

/-- A stream that ends inside a command raises `ILLEGAL_CMD` at it and no part of it takes effect (R123). That the port is
empty afterwards is the model's choice, DEDUCED in log 11. -/
def Obligations.TruncatedCommandIsRaised : Prop :=
  ∀ (s : State) (a : Agent) (h : Word) (ws : List Word), s.Running → s.PortFree a → s.portWords a = h :: ws →
    ws.length < extWords (opOf h) →
    agentTurn a s = .next { setPort a [] s with fault := .illegalCmd }

/-! ### The step, the halted block, faults (20_memory.md R88; 60_exceptions.md) -/

/-- A step of an agent with no transaction under way runs the command its port decodes to, the command taken off the port
and the turn used up; `RST` with both agents idle. -/
def Obligations.StepRunsTheDecodedCommand : Prop :=
  ∀ (s : State) (i : Instr) (rest : List Word), s.Running → s.PortFree s.nextAgent → (i = .rst → s.Idle) →
    decodeOn s.cfg.kind s.nextAgent (s.portWords s.nextAgent) = .ok (i, rest) →
    step s = exec i (setPort s.nextAgent rest (takeTurn s))

/-- The other steps of a running block (the model's framing, log 5 to 7): the next cycle of an `EMU` under way, the next
frame or the end of a render under way, and an idle turn with nothing pending. -/
def Obligations.StepContinuesOrIdles : Prop :=
  ∀ s : State, s.Running →
    (∀ e, s.nextAgent = .w → s.emu = some e → step s = .next (emuCycle e (takeTurn s))) ∧
    (∀ r, s.nextAgent = .r → s.render = some r → step s = .next (renderStep r (takeTurn s))) ∧
    (s.PortFree s.nextAgent → s.portWords s.nextAgent = [] → step s = .next (takeTurn s))

/-- The halted block (R306): every command but `RST` is refused without effect and taken off the port undecoded, a
transaction under way performs no further step, and `RST` is accepted. The model's choices: how many words a refused
command takes (log 11, DEDUCED), and that a transaction cut off is dropped at its agent's next turn, which it uses up
(log 18, DESIGN CHOICE). -/
def Obligations.HaltedBlockRefusesAllButReset : Prop :=
  ∀ s : State, s.fault ≠ .none →
    (∀ i : Instr, i ≠ .rst → exec i s = .next s) ∧
    exec .rst s = .next (resetBlock s) ∧
    (s.nextAgent = .w → step s = .next (match s.emu with
      | some _ => { takeTurn s with emu := none }
      | none => dropCommand .w (takeTurn s))) ∧
    (s.nextAgent = .r → step s = .next (match s.render with
      | some _ => { takeTurn s with render := none }
      | none => dropCommand .r (takeTurn s))) ∧
    (s.nextAgent = .host → step s = .next (match s.env.hostPort with
      | [] => takeTurn s
      | h :: _ => if h = 0xF000 then resetBlock (dropCommand .host (takeTurn s)) else dropCommand .host (takeTurn s)))

/-- No step stops the machine: every transaction ends done, faulted or refused (00_scope.md R16). The model's choices in
this: with a transaction under way the host's turn with `RST` pending waits, which R322 puts outside the spec (log 8,
DESIGN CHOICE); a turn with nothing pending is idle (log 6, DESIGN CHOICE); a raise and a refusal are next states (logs 9
and 10, DEDUCED). -/
def Obligations.EveryStepAnswersNext : Prop := ∀ s : State, ∃ t : State, step s = .next t

/-- Only `RST` clears a fault, and a recorded fault is never replaced (10_state.md R50, 60 R304, R311). -/
def Obligations.FaultIsSticky : Prop :=
  ∀ s t : State, s.fault ≠ .none → step s = .next t → t.fault = s.fault ∨ (s.startsCommand .rst ∧ t.fault = .none)

/-- Faults are precise (R310, R301): the state at the halt is the state before the transaction with the code recorded,
except for `cyc`, `timer` and the step counter when the insertion of a `CYC`, `EMU` or `FDIVN` faults; a later cycle of an
`EMU` that faults ends it, in the state before that cycle but for the same; a step of a render under way never faults.
`DIV0` is never raised (R308). -/
def Obligations.FaultsArePrecise : Prop :=
  (∀ (i : Instr) (s t : State), s.Running → s.lock = .free → s.emu = none → exec i s = .next t → t.fault ≠ .none →
    t.fault ≠ .div0 ∧
    (t = { s with fault := t.fault } ∨
      ((i = .cyc ∨ (∃ n, i = .emu n) ∨ ∃ n, i = .fdivn n) ∧ t.fault ≠ .cycOvf ∧ t.fault ≠ .illegalCmd ∧
        t = { s with fault := t.fault, cyc := t.cyc, timer := t.timer, dstep := t.dstep, wstep := t.wstep }))) ∧
  (∀ (e : EmuRun) (s t : State), s.Running → s.lock = .free → s.emu = some e → s.nextAgent = .w → step s = .next t →
    t.fault ≠ .none → t.fault ≠ .div0 ∧ t.fault ≠ .illegalCmd ∧
      t = { takeTurn s with
        fault := t.fault, emu := none, cyc := t.cyc, timer := t.timer, dstep := t.dstep, wstep := t.wstep } ∧
      (t.fault = .cycOvf → t = { takeTurn s with fault := .cycOvf, emu := none })) ∧
  (∀ (r : RenderRun) (s t : State), s.Running → s.render = some r → s.nextAgent = .r → step s = .next t → t.Running)

/-! ### Registers (45_channel_glue_and_facade.md) -/

/-- The writes that only store: `SWP` (with its marker), `LEN`, `WON`, `WLEN`, `WVOL` (R260, R261, R266 to R268). -/
def Obligations.StoredOnlyWritesStore : Prop :=
  ∀ (s : State) (d : Byte), s.Running →
    (s.cfg.kind = .square →
      exec (.wrSwp d) s = .next { s with
        reg := s.reg.set 0 d, ni := { s.ni with sweep := s.ni.sweep || decide (d.toNat ≠ 0) } } ∧
      exec (.wrLen d) s = .next { s with reg := s.reg.set 1 d }) ∧
    (s.cfg.kind = .wave →
      exec (.wrWon d) s = .next { s with reg := s.reg.set 0 d } ∧
      exec (.wrWlen d) s = .next { s with reg := s.reg.set 1 d } ∧
      exec (.wrWvol d) s = .next { s with reg := s.reg.set 2 d })

/-- `RD sel` answers the raw byte and changes nothing else; a select that does not exist is `ILLEGAL_CMD` (R262). -/
def Obligations.ReadRegister : Prop :=
  ∀ (s : State) (sel : BitVec 3), s.Running →
    (∀ h : sel.toNat < 5, exec (.rd sel) s = .next { s with resp := s.reg[sel.toNat] }) ∧
    (5 ≤ sel.toNat → exec (.rd sel) s = .next { s with fault := .illegalCmd })

/-- "write-any, read-back-what-was-written" (10_state.md R40, 45 R262): in either kind, after the `WR` of a select its
`RD` answers the byte written, and the other four registers are as before. -/
def Obligations.RegistersReadBackWhatWasWritten : Prop :=
  ∀ (s : State) (n : Nat) (d : Byte) (i : Instr), s.Running → wrInstr s.cfg.kind n d = some i →
    ∃ t u : State, exec i s = .next t ∧ t.Running ∧ exec (.rd (BitVec.ofNat 3 n)) t = .next u ∧
      u = { t with resp := d } ∧ ∀ m : Fin 5, m.val ≠ n → t.reg[m] = s.reg[m]

/-- `WRW` and `RDW`: one byte of the wave table in a `WAVE` instance, `ILLEGAL_CMD` in a `SQUARE` one (R269, R271). -/
def Obligations.WaveTableAccess : Prop :=
  ∀ (s : State) (idx : BitVec 4) (d : Byte), s.Running →
    (s.cfg.kind = .wave →
      exec (.wrw idx d) s = .next { s with wram := s.wram.set idx.toNat d } ∧
      exec (.rdw idx) s = .next { s with resp := s.wram[idx.toNat] }) ∧
    (s.cfg.kind = .square →
      exec (.wrw idx d) s = .next { s with fault := .illegalCmd } ∧
      exec (.rdw idx) s = .next { s with fault := .illegalCmd })

/-- The commands that change little or nothing (30_encoding.md R121): `NOP`, `EMU 0`, `FDIVN 0`, `OCLR 0`, and `RND 0`,
whose begin and end leave what `UPD` leaves, with `rc`, which means nothing between renders (R59), left free. -/
def Obligations.CommandsThatChangeLittle : Prop :=
  (∀ s : State, exec .nop s = .next s) ∧
  (∀ s : State, exec (.oclr 0) s = .next s) ∧
  (∀ s : State, s.Running → exec (.emu 0) s = .next { s with fired := false }) ∧
  (∀ s : State, s.Running → exec (.fdivn 0) s = .next { s with fired := false }) ∧
  (∀ (s : State) (fs : BitVec 32) (ref : Cycle), s.Running → s.render = none → fs ≠ 0 →
    ∃ (t u : State) (rc : Nat), exec (.rnd 0 fs ref) s = .next t ∧ exec (.upd ref) s = .next u ∧
      t.render = some ⟨0, 0, fs, ref⟩ ∧ renderStep ⟨0, 0, fs, ref⟩ t = { u with rc := rc })

/-! ### FDIV (41_frequency_divider.md) -/

/-- `WR FLO` stores its byte and recomputes `period`, and does nothing else (R155, R151). -/
def Obligations.WriteFrequencyLow : Prop :=
  ∀ (s : State) (d : Byte), s.Running →
    exec (.wrFlo d) s = .next { s with
      reg := s.reg.set 3 d
      period := BitVec.ofNat 14 ((2048 - (s.reg[4].toNat % 8 * 256 + d.toNat)) * fdivMult s.cfg.kind) }

/-- `WR FHI` (R157, R151, R152, 42 R183): it stores, recomputes `period`, sets the length marker for bit 6, and with bit 7
reloads `timer` with the new period and, in a `SQUARE` instance, the envelope. -/
def Obligations.WriteFrequencyHigh : Prop :=
  ∀ (s : State) (d : Byte), s.Running →
    let p : BitVec 14 := BitVec.ofNat 14 ((2048 - (d.toNat % 8 * 256 + s.reg[3].toNat)) * fdivMult s.cfg.kind)
    exec (.wrFhi d) s = .next { s with
      reg := s.reg.set 4 d
      period := p
      ni := { s.ni with length := s.ni.length || decide (d.toNat / 64 % 2 = 1) }
      timer := if 128 ≤ d.toNat then p else s.timer
      volume := if 128 ≤ d.toNat ∧ s.cfg.kind = .square then BitVec.ofNat 4 (s.reg[2].toNat / 16) else s.volume
      envCnt := if 128 ≤ d.toNat ∧ s.cfg.kind = .square then 0 else s.envCnt }

/-- The period formula (R151) in unbounded integers: after either frequency write `period` is
`(2048 - code) * FDIV_MULT` of the code now held, which lies in `[FDIV_MULT, 2048 * FDIV_MULT]`. -/
def Obligations.PeriodFollowsCode : Prop :=
  ∀ (s t : State) (d : Byte), s.Running → (exec (.wrFlo d) s = .next t ∨ exec (.wrFhi d) s = .next t) →
    t.code.toNat = t.reg[4].toNat % 8 * 256 + t.reg[3].toNat ∧
    t.period.toNat = (2048 - t.code.toNat) * fdivMult s.cfg.kind ∧
    fdivMult s.cfg.kind ≤ t.period.toNat ∧ t.period.toNat ≤ 2048 * fdivMult s.cfg.kind

/-- The closed form of `n` ticks (R161), from any count, with `f` what had fired before. -/
def Obligations.ClosedFormOfTicks : Prop :=
  ∀ (p t : BitVec 14) (n : Nat) (f : Bool),
    if p = 0 then ticks p n ⟨t, f⟩ = ⟨t, f⟩ ∧ fireCount p n t = 0
    else if n < max t.toNat 1 then
      (ticks p n ⟨t, f⟩).timer.toNat = t.toNat - n ∧ (ticks p n ⟨t, f⟩).fired = f ∧ fireCount p n t = 0
    else
      (ticks p n ⟨t, f⟩).timer.toNat = p.toNat - (n - max t.toNat 1) % p.toNat ∧ (ticks p n ⟨t, f⟩).fired = true ∧
        fireCount p n t = 1 + (n - max t.toNat 1) / p.toNat

/-- A `CYC` without underflow (R156, R153, R154): the count and the timer advance, `fired` is 0. -/
def Obligations.CycleWithoutUnderflow : Prop :=
  ∀ s : State, s.Running → s.cyc.toInt < maxI64 → (s.period = 0 ∨ 2 ≤ s.timer.toNat) →
    exec .cyc s = .next { s with
      cyc := s.cyc + 1, timer := (if s.period = 0 then s.timer else s.timer - 1), fired := false }

/-- A `CYC` with an underflow (R156, 45 R273, 43 R216): reload, one step of the source, then exactly one insertion of its
amplitude, as `INS` of its byte performs it, stamped with the count after the increment; where the ring is full the cycle's own
effects stay, `fired` is not written and the block halts (60 R301). -/
def Obligations.CycleWithUnderflow : Prop :=
  ∀ s : State, s.Running → s.lock = .free → s.cyc.toInt < maxI64 → s.period ≠ 0 → s.timer.toNat ≤ 1 →
    let u := atUnderflow 1 s.period s
    (u.insertionFits u.sourceAmp u.cyc →
      ∃ v : State, exec (.ins (BitVec.ofInt 8 u.sourceAmp) u.cyc) u = .next v ∧ v.Running ∧
        exec .cyc s = .next { v with fired := true }) ∧
    (0 ≤ u.cyc.toInt → u.coalesces u.sourceAmp = false → u.outOfOrder u.cyc = false → u.ringFull = true →
      exec .cyc s = .next { u with fault := .ringFull })

/-- `CYC_OVF` (60 R303): `CYC`, the first cycle of `EMU`, a later one, and `FDIVN` as a whole, before anything changes. -/
def Obligations.CycleCountOverflow : Prop :=
  ∀ s : State, s.Running →
    (s.cyc.toInt = maxI64 →
      exec .cyc s = .next { s with fault := .cycOvf } ∧
      (∀ n : BitVec 12, n ≠ 0 → exec (.emu n) s = .next { s with fault := .cycOvf, emu := none }) ∧
      (∀ e, s.emu = some e → s.nextAgent = .w → step s = .next { takeTurn s with fault := .cycOvf, emu := none })) ∧
    (∀ n : BitVec 12, maxI64 < s.cyc.toInt + (n.toNat : Int) →
      exec (.fdivn n) s = .next { s with fault := .cycOvf })

/-- The steps of `EMU n` (R158, R88), whatever R does between them: with `n = 0` only `fired <- 0`; else its first step is
one cycle, and so is every later turn of W while an `EMU` is under way, at any point of it and with anything having fired
before. A cycle without an underflow, one whose insertion fits, and one that finds the ring full, which ends the `EMU`
without writing `fired` (60 R301). -/
def Obligations.EmuRunsOneCycleAStep : Prop :=
  ∀ s : State, s.Running → s.lock = .free →
    exec (.emu 0) s = .next { s with fired := false } ∧
    (s.cyc.toInt < maxI64 →
      (∀ n : BitVec 12, n ≠ 0 → EmuCycleEffect ⟨n.toNat, false⟩ s (exec (.emu n) s)) ∧
      (∀ e : EmuRun, s.emu = some e → s.nextAgent = .w → EmuCycleEffect e (takeTurn s) (step s)))

/-- `EMU n` "is by definition the same as `n` times `CYC` except for `fired`" (R158): agent W's next `n` turns run the
whole `EMU` and leave what `n` `CYC` leave, `fired` being the OR; where a cycle faults the transaction ends in that
turn, earlier cycles stay and `fired` is not written. -/
def Obligations.EmuIsRepeatedCycles : Prop :=
  ∀ (s : State) (n : BitVec 12) (rest : List Word), s.Running → s.emu = none → n ≠ 0 →
    s.env.wPort = encode (.emu n) ++ rest →
    let r := cycRun n.toNat { s with env := { s.env with wPort := rest } }
    (r.1.Running → steps n.toNat (withTurns .w n.toNat s) = .next { r.1 with fired := r.2 }) ∧
    (¬ r.1.Running → ∃ j : Nat, 1 ≤ j ∧ j ≤ n.toNat ∧
      steps j (withTurns .w j s) = .next { r.1 with fired := s.fired })

/-- `FDIVN n` (R160): the count advances by `n`, `timer` is the `n`-fold tick; with no fire that is all, else ONE step of
the source and one insertion stamped with the end of the batch, however many fires. -/
def Obligations.BatchOfCycles : Prop :=
  ∀ (s : State) (n : BitVec 12), s.Running → s.lock = .free → s.cyc.toInt + (n.toNat : Int) ≤ maxI64 →
    let t := (ticks s.period n.toNat ⟨s.timer, false⟩).timer
    (fireCount s.period n.toNat s.timer = 0 →
      exec (.fdivn n) s = .next { s with cyc := s.cyc + BitVec.ofNat 64 n.toNat, timer := t, fired := false }) ∧
    (0 < fireCount s.period n.toNat s.timer →
      let u := atUnderflow n.toNat t s
      (u.insertionFits u.sourceAmp u.cyc →
        ∃ v : State, exec (.ins (BitVec.ofInt 8 u.sourceAmp) u.cyc) u = .next v ∧ v.Running ∧
          exec (.fdivn n) s = .next { v with fired := true }) ∧
      (0 ≤ u.cyc.toInt → u.coalesces u.sourceAmp = false → u.outOfOrder u.cyc = false → u.ringFull = true →
        exec (.fdivn n) s = .next { u with fault := .ringFull }))

/-- `FDIVN n` equals the `n` cycles one by one when no underflow occurs before the last of them; `FDIVN 1` equals `CYC` in
every state (R160). -/
def Obligations.BatchEqualsCyclesWithoutEarlyUnderflow : Prop :=
  (∀ s : State, exec (.fdivn 1) s = exec .cyc s) ∧
  (∀ (s t : State) (n : BitVec 12), s.Running → n ≠ 0 → fireCount s.period (n.toNat - 1) s.timer = 0 →
    runInstrs (List.replicate n.toNat .cyc) s = .next t → t.Running → exec (.fdivn n) s = .next t)

/-- What can change the frequency state (R163, R164, R152): `code` and `period` only `WR FLO`, `WR FHI` and `RST`; `timer`
only elapsed cycles, a trigger and `RST`. -/
def Obligations.OnlyFrequencyCommandsChangeFrequency : Prop :=
  ∀ s t : State, step s = .next t →
    (t.code ≠ s.code ∨ t.period ≠ s.period →
      ∃ i, s.startsCommand i ∧ ((∃ d, i = .wrFlo d) ∨ (∃ d, i = .wrFhi d) ∨ i = .rst)) ∧
    (t.timer ≠ s.timer →
      (s.nextAgent = .w ∧ s.emu.isSome = true) ∨
      ∃ i, s.startsCommand i ∧ (i = .cyc ∨ (∃ n, i = .emu n) ∨ (∃ n, i = .fdivn n) ∨
        (∃ d, i = .wrFhi d ∧ fhiInit d = true) ∨ i = .rst))

/-- The insertions of `CYC`, of `EMU` in its first cycle and in every later one, and of `FDIVN` are in order (43 R206, R216)
from every state whose last record is not stamped later than `cyc`, and keep it so. The premise is the model's (log 17): a
direct `INS` may stamp later than `cyc`. -/
def Obligations.SourceInsertionsAreInOrder : Prop :=
  ∀ s t : State, s.Running → s.newest < s.cfg.ringN → s.CycInv → s.StampInv →
    ((∃ i : Instr, (i = .cyc ∨ (∃ n, i = .emu n) ∨ ∃ n, i = .fdivn n) ∧ exec i s = .next t) ∨
      (s.emu.isSome = true ∧ s.nextAgent = .w ∧ step s = .next t)) →
    t.fault ≠ .badArg ∧ t.fault ≠ .order ∧ t.CycInv ∧ t.StampInv

/-! ### ENV (42_envelope.md) -/

/-- `WR ENV` stores its byte, reloads the volume and clears the divider, and does nothing else (R182). -/
def Obligations.WriteEnvelope : Prop :=
  ∀ (s : State) (d : Byte), s.Running → s.cfg.kind = .square →
    exec (.wrEnv d) s = .next { s with reg := s.reg.set 2 d, volume := BitVec.ofNat 4 (d.toNat / 16), envCnt := 0 }

/-- One `ENVCLK` (R185, R186, R188, R189). -/
def Obligations.EnvelopeClock : Prop :=
  ∀ s : State, s.Running →
    let p := s.reg[2].toNat % 8
    let c := (s.envCnt.toNat + 1) % p
    exec .envclk s = .next (
      if s.cfg.kind = .square ∧ p ≠ 0 then { s with
        envCnt := BitVec.ofNat 3 c
        volume := if c ≠ 0 then s.volume
          else if s.reg[2].toNat / 8 % 2 = 1 then BitVec.ofNat 4 (min (s.volume.toNat + 1) 15)
          else BitVec.ofNat 4 (s.volume.toNat - 1) }
      else s)

/-- The timing of a ramp (R187): `n` ticks after a reload the volume has stepped `n / p` times toward its limit, where it
stays. -/
def Obligations.EnvelopeRampTiming : Prop :=
  ∀ (s : State) (n : Nat), s.Running → s.cfg.kind = .square → s.envPeriod ≠ 0 → s.envCnt = 0 →
    ∃ t : State, runInstrs (List.replicate n .envclk) s = .next t ∧
      t = { s with volume := t.volume, envCnt := t.envCnt } ∧
      t.envCnt.toNat = n % s.envPeriod.toNat ∧
      t.volume.toNat = (if s.envDir = true then min 15 (s.volume.toNat + n / s.envPeriod.toNat)
        else s.volume.toNat - n / s.envPeriod.toNat)

/-- What changes `volume` and `env_cnt`: `WR ENV`, `WR FHI` with bit 7, `ENVCLK`, `RST`; no other step does (R190). -/
def Obligations.OnlyEnvelopeCommandsChangeVolume : Prop :=
  ∀ s t : State, step s = .next t → t.volume ≠ s.volume ∨ t.envCnt ≠ s.envCnt →
    ∃ i, s.startsCommand i ∧
      ((∃ d, i = .wrEnv d) ∨ (∃ d, i = .wrFhi d ∧ 128 ≤ d.toNat) ∨ i = .envclk ∨ i = .rst)

/-! ### SRC (45_channel_glue_and_facade.md) -/

/-- The square amplitude (R263, R264, 10_state.md R42): the duty step advances modulo 8, and is `+volume` below the
threshold of the duty code and `-volume` from it on. -/
def Obligations.SquareAmplitude : Prop :=
  ∀ s : State, s.cfg.kind = .square →
    let k := (s.dstep.toNat + 1) % 8
    let duty := s.reg[1].toNat / 64
    let thr := if duty = 0 then 1 else if duty = 1 then 2 else if duty = 2 then 4 else 6
    advanceStep s = { s with dstep := BitVec.ofNat 3 k } ∧
    (advanceStep s).sourceAmp = if k < thr then (s.volume.toNat : Int) else -(s.volume.toNat : Int)

/-- The wave amplitude (R270, R272, 20_memory.md R72): the step advances modulo 32 and picks a nibble, high first; off or
shift code 0 gives 0, else the signed sample is divided by `2^(code - 1)`, rounding down. -/
def Obligations.WaveAmplitude : Prop :=
  ∀ s : State, s.cfg.kind = .wave →
    let w := (s.wstep.toNat + 1) % 32
    let b := ((s.wram[w / 2]?).getD 0).toNat
    let nib := if w % 2 = 0 then b / 16 else b % 16
    let code := s.reg[2].toNat / 32 % 4
    advanceStep s = { s with wstep := BitVec.ofNat 5 w } ∧
    (advanceStep s).sourceAmp =
      if s.reg[0].toNat < 128 ∨ code = 0 then 0 else ((nib : Int) - 8) / 2 ^ (code - 1)

/-! ### RING (43_event_ring.md) -/

/-- `INS` appends (R204, R202, R203): the new open record at `newest`, the previous one, if there is one, closed at the
stamp with `start` and `amp` untouched, every other slot as before. The amplitude is the operand byte read as `i8` for
`AMP_W >= 8` (30_encoding.md R104); below that it may be a free value (log 29), and the statement holds for each. -/
def Obligations.InsertAppends : Prop :=
  ∀ (s : State) (b : Byte) (c : Cycle), s.Running → s.lock = .free → s.newest < s.cfg.ringN →
    0 ≤ c.toInt → s.coalesces (s.insAmp b) = false → s.outOfOrder c = false → s.ringFull = false →
    ∃ t : State, exec (.ins b c) s = .next t ∧
      t = { s with ring := t.ring, newest := (s.newest + 1) % s.cfg.ringN, wrValid := true } ∧
      t.slot s.newest = { start := c, stop := 0, isOpen := true, amp := s.insAmp b } ∧
      (8 ≤ s.cfg.ampW → s.insAmp b = b.toInt) ∧
      (s.wrValid = true → t.slot (s.prev s.newest) = { s.slot (s.prev s.newest) with stop := c, isOpen := false }) ∧
      (∀ a : Nat, a ≠ s.newest → (s.wrValid = true → a ≠ s.prev s.newest) →
        Memory.read t.ring a = Memory.read s.ring a)

/-- A coalesced insertion changes nothing at all, in a full ring too (R205). -/
def Obligations.CoalescedInsertionChangesNothing : Prop :=
  ∀ (s : State) (b : Byte) (c : Cycle), s.Running → s.lock = .free → 0 ≤ c.toInt →
    s.wrValid = true → (s.slot (s.prev s.newest)).amp = s.insAmp b → exec (.ins b c) s = .next s

/-- The faults of `INS` in their order (60 R309, 43 R206 to R210): `BAD_ARG`; then, unless coalesced, `ORDER`, then
`RING_FULL`; nothing but `fault` changes. -/
def Obligations.InsertionFaults : Prop :=
  ∀ (s : State) (b : Byte) (c : Cycle), s.Running → s.lock = .free →
    (c.toInt < 0 → exec (.ins b c) s = .next { s with fault := .badArg }) ∧
    (0 ≤ c.toInt → s.coalesces (s.insAmp b) = false →
      (s.wrValid = true ∧ c.toInt < (s.slot (s.prev s.newest)).start.toInt →
        exec (.ins b c) s = .next { s with fault := .order }) ∧
      (¬ (s.wrValid = true ∧ c.toInt < (s.slot (s.prev s.newest)).start.toInt) →
        (s.newest + 1) % s.cfg.ringN = s.oldest → exec (.ins b c) s = .next { s with fault := .ringFull }))

/-- `UPD ref` (R212, R211, R214): it retires the live records from `oldest` on up to the first that is not fully consumed,
takes the snapshot and changes nothing else. -/
def Obligations.UpdRetiresConsumedRecords : Prop :=
  ∀ (s : State) (ref : Cycle), s.Running → s.lock = .free → s.CursorsInRange →
    ∃ n : Nat, n ≤ s.live ∧ exec (.upd ref) s = .next { s with oldest := s.liveSlot n, pwe := s.newest } ∧
      (∀ j, j < n → s.liveConsumed ref j) ∧ (n < s.live → ¬ s.liveConsumed ref n)

/-- The most recent record is never retired, and the loop is equivalent to retiring while the next record has started
before `ref`; the ring is empty afterwards only if nothing was ever inserted (R213). -/
def Obligations.MostRecentRecordIsNeverRetired : Prop :=
  ∀ (s : State) (ref : Cycle), s.Running → s.lock = .free → s.RingInv →
    ∃ n : Nat, exec (.upd ref) s = .next { s with oldest := s.liveSlot n, pwe := s.newest } ∧
      (∀ j, j < n → j + 1 < s.live ∧ (s.liveRecord (j + 1)).start.toInt < ref.toInt) ∧
      (n + 1 < s.live → ¬ (s.liveRecord (n + 1)).start.toInt < ref.toInt) ∧
      (s.liveSlot n = s.newest → s.wrValid = false)

/-- What W writes after a snapshot (20_memory.md R90): of the window, never `start` or `amp`, and `end` and `open` of its
last slot only, once, with the first record appended after the snapshot. -/
def Obligations.WriterLeavesTheWindowAlone : Prop :=
  ∀ s t : State, s.RingInv → s.nextAgent = .w → step s = .next t →
    t.oldest = s.oldest ∧ t.pwe = s.pwe ∧
    ∀ j, j < s.dist s.oldest s.pwe →
      (t.slot (s.liveSlot j)).start = (s.liveRecord j).start ∧ (t.slot (s.liveSlot j)).amp = (s.liveRecord j).amp ∧
      (t.slot (s.liveSlot j) = s.liveRecord j ∨
        (j + 1 = s.dist s.oldest s.pwe ∧ s.pwe = s.newest ∧ t.newest ≠ s.pwe ∧
          (s.liveRecord j).isOpen = true ∧ (t.slot (s.liveSlot j)).isOpen = false))

/-! ### RND (44_renderer.md) -/

/-- `OCLR F` clears frames `0` to `F - 1` and touches nothing else (R232). -/
def Obligations.ClearFrames : Prop :=
  ∀ (s : State) (frames : BitVec 12), s.Running →
    ∃ t : State, exec (.oclr frames) s = .next t ∧ t = { s with out := t.out } ∧
      (∀ k, k < frames.toNat → t.frame k = 0) ∧
      (∀ k, frames.toNat ≤ k → Memory.read t.out k = Memory.read s.out k)

/-- The begin step of `RND` (R234, R233): what `UPD ref` does, the scan cursor at `oldest` and the operands latched; or
`BAD_ARG` before anything changes (R241). -/
def Obligations.RenderBegins : Prop :=
  ∀ (s : State) (frames : BitVec 12) (fs : BitVec 32) (ref : Cycle), s.Running → s.lock = .free →
    (fs ≠ 0 ∧ (frames ≠ 0 →
        ref.toInt + (((frames.toNat - 1) * s.cfg.cpuHz / fs.toNat : Nat) : Int) ≤ maxI64) →
      ∃ u : State, exec (.upd ref) s = .next u ∧ exec (.rnd frames fs ref) s = .next { u with
        rc := u.oldest, render := some ⟨0, frames.toNat, fs, ref⟩ }) ∧
    (fs = 0 ∨ (frames ≠ 0 ∧
        maxI64 < ref.toInt + (((frames.toNat - 1) * s.cfg.cpuHz / fs.toNat : Nat) : Int)) →
      exec (.rnd frames fs ref) s = .next { s with fault := .badArg })

/-- A frame step (R236 to R239): the frame gains the sample at its position of the window, whatever the cursor had passed
before, the cursor never goes back, what it passes covers no later position, every other frame is as before; the end
step adds `F` to `S` (R243). -/
def Obligations.FrameStepAddsTheWindowSample : Prop :=
  ∀ (s : State) (r : RenderRun), s.Running → s.render = some r → s.nextAgent = .r →
    (r.frames ≤ r.k → step s = .next { takeTurn s with samples := s.samples + r.frames, render := none }) ∧
    (r.k < r.frames → s.RingInv → s.RenderInv → s.PassedFor (framePos s.cfg.cpuHz r.fs r.ref r.k) →
      ∃ t : State, step s = .next t ∧
        t = { takeTurn s with out := t.out, rc := t.rc, render := some { r with k := r.k + 1 } } ∧
        t.frame r.k = narrow s.cfg.outW (s.frame r.k + s.windowSample (framePos s.cfg.cpuHz r.fs r.ref r.k)) ∧
        (∀ k, k ≠ r.k → Memory.read t.out k = Memory.read s.out k) ∧
        s.dist s.oldest s.rc ≤ s.dist s.oldest t.rc ∧
        t.PassedFor (framePos s.cfg.cpuHz r.fs r.ref (r.k + 1)))

/-- A whole render without interference (R234, R231, R237, R238, R243): `F + 2` turns of agent R leave what `UPD ref`
leaves, every frame `k < F` with the sample at `ref + floor(k * CPU_HZ / fs)` of the window added, no other frame changed
and `F` added to `S`. -/
def Obligations.UninterruptedRender : Prop :=
  ∀ (s : State) (frames : BitVec 12) (fs : BitVec 32) (ref : Cycle) (rest : List Word),
    s.Running → s.lock = .free → s.render = none → s.RingInv →
    s.env.rPort = encode (.rnd frames fs ref) ++ rest → fs ≠ 0 →
    (frames ≠ 0 → ref.toInt + (((frames.toNat - 1) * s.cfg.cpuHz / fs.toNat : Nat) : Int) ≤ maxI64) →
    ∃ t u : State, steps (frames.toNat + 2) (withTurns .r (frames.toNat + 2) s) = .next t ∧
      exec (.upd ref) { s with env := { s.env with rPort := rest } } = .next u ∧
      t = { u with rc := t.rc, out := t.out, samples := s.samples + frames.toNat } ∧
      (∀ k, k < frames.toNat → t.frame k = narrow s.cfg.outW (s.frame k +
        u.windowSample (ref.toInt + ((k * s.cfg.cpuHz / fs.toNat : Nat) : Int)))) ∧
      (∀ k, frames.toNat ≤ k → Memory.read t.out k = Memory.read s.out k)

/-- The two views of the last slot of the window (20_memory.md R91): closing it at `c` changes no sample below `c`; from
`c` on the open view gives the record's sample and the closed view silence. -/
def Obligations.TwoViewsOfTheLastSlot : Prop :=
  ∀ (s : State) (c : Cycle) (p : Int), s.RingInv → 0 < s.dist s.oldest s.pwe →
    let l := s.liveSlot (s.dist s.oldest s.pwe - 1)
    (s.slot l).isOpen = true → (s.slot l).start.toInt ≤ c.toInt →
    (p < c.toInt → (closeSlot l c s).windowSample p = s.windowSample p) ∧
    (c.toInt ≤ p → (closeSlot l c s).windowSample p = 0 ∧ s.windowSample p = (s.slot l).amp * s.cfg.gain)

/-! ### Reset and invariants (10_state.md R55, R63; 70_reset_and_hazards.md R340) -/

/-- `RST` (70 R340, R63), with no transaction under way or in a halted block, and power-on alike: every piece of state at
its reset value; the parameters and `out` are left alone. That the words pending on the ports are left alone (log 5) and
that the counter of the free values of ring slots advances (log 12) are the model's choices, both DESIGN CHOICE. -/
def Obligations.ResetRestoresEverything : Prop :=
  State.reset.AtReset ∧
  ∀ s : State, (s.Running → s.Idle) → ∃ t : State, exec .rst s = .next t ∧ t.AtReset ∧
    t.cfg = s.cfg ∧ t.out = s.out ∧ t.env = { s.env with resets := s.env.resets + 1 }

/-- A reset with a transaction under way is outside the spec (60 R322): the model's choice (log 8) is that the host's turn
waits, and that the bare command stops by name. -/
def Obligations.ResetWaitsForIdleAgents : Prop :=
  ∀ s : State, s.Running → ¬ s.Idle →
    exec .rst s = .fault .resetUnderWay ∧
    (∀ ws, s.nextAgent = .host → s.env.hostPort = 0xF000 :: ws → step s = .next (takeTurn s))

/-- The state after reset meets every invariant (10_state.md R55, R63), in an instance with any parameters and any
canonical output buffer of its frame width. -/
def Obligations.ResetMeetsTheInvariants : Prop :=
  ∀ (cfg : Params) (out : Memory Int) (env : Env), Memory.wf out = true →
    out.all (fun c => fits cfg.outW c.2) = true →
    let s := State.powerOn cfg out env
    s.Running ∧ s.Idle ∧ s.lock = .free ∧ s.RingInv ∧ s.RenderInv ∧ s.DividerInv ∧ s.EnvelopeInv ∧ s.AbsentInv ∧
      s.CycInv ∧ s.StampInv ∧ s.StorageInv ∧ s.WidthInv

/-- Every step keeps the invariants of the ring, all seven (10_state.md R55, 43 R215), from every state that has them. -/
def Obligations.StepKeepsTheRingInvariants : Prop :=
  ∀ s t : State, s.RingInv → step s = .next t → t.RingInv

/-- Every step keeps the scan cursor of a render under way inside its window (10_state.md R59, 20_memory.md R89). -/
def Obligations.StepKeepsTheRenderInvariant : Prop :=
  ∀ s t : State, s.RingInv → s.RenderInv → step s = .next t → t.RenderInv

/-- Every step keeps the parameters, the widths of the amplitudes and frames stored (10_state.md R53, R57), the ring's and the
output buffer's storage canonical, and the lock free. The canonical form is the model's own (log 12, DESIGN CHOICE), and
that the lock is free after a raise inside the critical section too is log 16 (DEDUCED from R85 and 60 R310). -/
def Obligations.StepKeepsStorageLockAndParameters : Prop :=
  ∀ s t : State, step s = .next t → t.cfg = s.cfg ∧
    (s.WidthInv → t.WidthInv) ∧ (s.StorageInv → t.StorageInv) ∧ (s.lock = .free → t.lock = .free)

/-- Every step keeps the divider's and the envelope's invariants (10_state.md R32, R33, R35; 41 R163). The last clause is the
model's choice (log 22, DESIGN CHOICE): the fields a kind does not have exist and keep their reset value. -/
def Obligations.StepKeepsTheUnitInvariants : Prop :=
  ∀ s t : State, step s = .next t →
    (s.DividerInv → t.DividerInv) ∧ (s.EnvelopeInv → t.EnvelopeInv) ∧ (s.AbsentInv → t.AbsentInv)

/-- The cycle counter only grows (10_state.md R31, 40 R134): only `CYC`, `EMU`, `FDIVN` and `RST` change it, and no step
but `RST` makes it smaller. -/
def Obligations.CycleCountOnlyGrows : Prop :=
  ∀ s t : State, step s = .next t →
    (s.CycInv → t.CycInv) ∧
    (¬ s.startsCommand .rst → s.cyc.toInt ≤ t.cyc.toInt) ∧
    (t.cyc ≠ s.cyc → (s.nextAgent = .w ∧ s.emu.isSome = true) ∨
      ∃ i, s.startsCommand i ∧ (i = .cyc ∨ (∃ n, i = .emu n) ∨ (∃ n, i = .fdivn n) ∨ i = .rst))

/-! ### The two domains (10_state.md R30; 20_memory.md R89, R93; 60_exceptions.md R321) -/

/-- Neither agent writes the other's state: W leaves domain A, R's render and R's port alone; R leaves domain E, the ring,
W's `EMU` and W's port alone. -/
def Obligations.NeitherAgentWritesTheOthersState : Prop :=
  ∀ s t : State, step s = .next t →
    (s.nextAgent = .w → t.oldest = s.oldest ∧ t.pwe = s.pwe ∧ t.rc = s.rc ∧ t.samples = s.samples ∧ t.out = s.out ∧
      t.render = s.render ∧ t.env.rPort = s.env.rPort ∧ t.env.hostPort = s.env.hostPort) ∧
    (s.nextAgent = .r → t.cyc = s.cyc ∧ t.reg = s.reg ∧ t.period = s.period ∧ t.timer = s.timer ∧
      t.volume = s.volume ∧ t.envCnt = s.envCnt ∧ t.dstep = s.dstep ∧ t.wstep = s.wstep ∧ t.wram = s.wram ∧
      t.resp = s.resp ∧ t.fired = s.fired ∧ t.ni = s.ni ∧ t.newest = s.newest ∧ t.wrValid = s.wrValid ∧
      t.ring = s.ring ∧ t.emu = s.emu ∧ t.env.wPort = s.env.wPort ∧ t.env.hostPort = s.env.hostPort)

/-- A turn of R depends on nothing of W's private state: two states that agree on what R may read still agree after it. -/
def Obligations.ReaderLearnsNothingPrivate : Prop :=
  ∀ s t : State, AgreeForR s t →
    ∃ s' t' : State, turnR s = .next s' ∧ turnR t = .next t' ∧ AgreeForR s' t'

/-- A turn of W depends on nothing of R's private state. -/
def Obligations.WriterLearnsNothingPrivate : Prop :=
  ∀ s t : State, AgreeForW s t →
    ∃ s' t' : State, turnW s = .next s' ∧ turnW t = .next t' ∧ AgreeForW s' t'

/-- The content of a dead slot is never read (10_state.md R55 item 3): two states that differ only there still differ only
there after any step. -/
def Obligations.DeadSlotsAreNeverRead : Prop :=
  ∀ s t s' t' : State, s.RingInv → s.RenderInv → AgreeButDead s t → step s = .next s' → step t = .next t' →
    AgreeButDead s' t'

end
end

