-- ==== Sys2Proof/Laws/Decode.lean ====
section
/-! SUPPORT. Laws of the command words: the fields of a head, operand assembly, ports. -/

namespace Sys2Proof

/-! ### Values of the slices -/

theorem opOf_toNat (h : Word) : (opOf h).toNat = h.toNat / 4096 := by
  have := h.isLt
  simp only [opOf, BitVec.extractLsb'_toNat, Nat.shiftRight_eq_div_pow]
  omega

theorem aOf_toNat (h : Word) : (aOf h).toNat = h.toNat / 256 % 16 := by
  simp [aOf, BitVec.extractLsb'_toNat, Nat.shiftRight_eq_div_pow]

theorem bOf_toNat (h : Word) : (bOf h).toNat = h.toNat % 256 := by
  simp [bOf, BitVec.extractLsb'_toNat]

theorem n12Of_toNat (h : Word) : (n12Of h).toNat = h.toNat % 4096 := by
  simp [n12Of, BitVec.extractLsb'_toNat]

theorem headOf_toNat (op a : BitVec 4) (b : Byte) :
    (headOf op a b).toNat = op.toNat * 4096 + a.toNat * 256 + b.toNat := by
  have := op.isLt; have := a.isLt; have := b.isLt
  simp only [headOf, BitVec.toNat_ofNat]
  omega

theorem headN_toNat (op : BitVec 4) (n : BitVec 12) : (headN op n).toNat = op.toNat * 4096 + n.toNat := by
  have := op.isLt; have := n.isLt
  simp only [headN, BitVec.toNat_ofNat]
  omega

/-! ### The fields of an assembled head -/

@[simp] theorem opOf_headOf (op a : BitVec 4) (b : Byte) : opOf (headOf op a b) = op := by
  have := a.isLt; have := b.isLt
  apply BitVec.eq_of_toNat_eq
  rw [opOf_toNat, headOf_toNat]
  omega

@[simp] theorem aOf_headOf (op a : BitVec 4) (b : Byte) : aOf (headOf op a b) = a := by
  have := a.isLt; have := b.isLt
  apply BitVec.eq_of_toNat_eq
  rw [aOf_toNat, headOf_toNat]
  omega

@[simp] theorem bOf_headOf (op a : BitVec 4) (b : Byte) : bOf (headOf op a b) = b := by
  have := b.isLt
  apply BitVec.eq_of_toNat_eq
  rw [bOf_toNat, headOf_toNat]
  omega

@[simp] theorem opOf_headN (op : BitVec 4) (n : BitVec 12) : opOf (headN op n) = op := by
  have := n.isLt
  apply BitVec.eq_of_toNat_eq
  rw [opOf_toNat, headN_toNat]
  omega

@[simp] theorem n12Of_headN (op : BitVec 4) (n : BitVec 12) : n12Of (headN op n) = n := by
  have := n.isLt
  apply BitVec.eq_of_toNat_eq
  rw [n12Of_toNat, headN_toNat]
  omega

/-- A head is its three fields. -/
theorem headOf_fields (h : Word) : headOf (opOf h) (aOf h) (bOf h) = h := by
  apply BitVec.eq_of_toNat_eq
  rw [headOf_toNat, opOf_toNat, aOf_toNat, bOf_toNat]
  omega

/-- A head is its opcode and `n12`. -/
theorem headN_fields (h : Word) : headN (opOf h) (n12Of h) = h := by
  apply BitVec.eq_of_toNat_eq
  rw [headN_toNat, opOf_toNat, n12Of_toNat]
  omega

/-! ### Operand assembly (30_encoding.md R102) -/

/-- The words of a 64-bit operand assemble to it, least significant first. -/
@[simp] theorem join64_words (v : BitVec 64) :
    join64 (v.extractLsb' 0 16) (v.extractLsb' 16 16) (v.extractLsb' 32 16) (v.extractLsb' 48 16) = v := by
  have := v.isLt
  apply BitVec.eq_of_toNat_eq
  simp only [join64, BitVec.toNat_ofNat, BitVec.extractLsb'_toNat, Nat.shiftRight_eq_div_pow]
  omega

/-- The words of a 32-bit operand assemble to it. -/
@[simp] theorem join32_words (v : BitVec 32) : join32 (v.extractLsb' 0 16) (v.extractLsb' 16 16) = v := by
  have := v.isLt
  apply BitVec.eq_of_toNat_eq
  simp only [join32, BitVec.toNat_ofNat, BitVec.extractLsb'_toNat, Nat.shiftRight_eq_div_pow]
  omega

theorem join64_toNat (x0 x1 x2 x3 : Word) :
    (join64 x0 x1 x2 x3).toNat = x3.toNat * 281474976710656 + x2.toNat * 4294967296 + x1.toNat * 65536 + x0.toNat := by
  have h0 : x0.toNat < 65536 := x0.isLt
  have h1 : x1.toNat < 65536 := x1.isLt
  have h2 : x2.toNat < 65536 := x2.isLt
  have h3 : x3.toNat < 65536 := x3.isLt
  rw [join64, BitVec.toNat_ofNat]
  exact Nat.mod_eq_of_lt (by omega)

theorem join32_toNat (x0 x1 : Word) : (join32 x0 x1).toNat = x1.toNat * 65536 + x0.toNat := by
  have h0 : x0.toNat < 65536 := x0.isLt
  have h1 : x1.toNat < 65536 := x1.isLt
  rw [join32, BitVec.toNat_ofNat]
  exact Nat.mod_eq_of_lt (by omega)

/-- An assembled 64-bit operand splits into its words. -/
theorem words64_join (x0 x1 x2 x3 : Word) : words64 (join64 x0 x1 x2 x3) = [x0, x1, x2, x3] := by
  have h0 : x0.toNat < 65536 := x0.isLt
  have h1 : x1.toNat < 65536 := x1.isLt
  have h2 : x2.toNat < 65536 := x2.isLt
  have h3 : x3.toNat < 65536 := x3.isLt
  have e : ∀ k x, (join64 x0 x1 x2 x3).toNat / 2 ^ k % 65536 = x.toNat → (join64 x0 x1 x2 x3).extractLsb' k 16 = x := by
    intro k x h
    apply BitVec.eq_of_toNat_eq
    rw [BitVec.extractLsb'_toNat, Nat.shiftRight_eq_div_pow]
    exact h
  rw [words64, e 0 x0, e 16 x1, e 32 x2, e 48 x3] <;> rw [join64_toNat] <;> omega

/-- An assembled 32-bit operand splits into its words. -/
theorem words32_join (x0 x1 : Word) : words32 (join32 x0 x1) = [x0, x1] := by
  have h0 : x0.toNat < 65536 := x0.isLt
  have h1 : x1.toNat < 65536 := x1.isLt
  have e : ∀ k x, (join32 x0 x1).toNat / 2 ^ k % 65536 = x.toNat → (join32 x0 x1).extractLsb' k 16 = x := by
    intro k x h
    apply BitVec.eq_of_toNat_eq
    rw [BitVec.extractLsb'_toNat, Nat.shiftRight_eq_div_pow]
    exact h
  rw [words32, e 0 x0, e 16 x1] <;> rw [join32_toNat] <;> omega

/-! ### Ports -/

/-- `decodeOn` answers a command exactly where `decode` does and the port owns it (30_encoding.md R122). -/
theorem decodeOn_ok_iff (k : ChKind) (p : Agent) (ws rest : List Word) (i : Instr) :
    decodeOn k p ws = .ok (i, rest) ↔ decode k ws = .ok (i, rest) ∧ p.owns i = true := by
  unfold decodeOn
  cases decode k ws with
  | error e => simp
  | ok v =>
    obtain ⟨j, r⟩ := v
    by_cases h : p.owns j = true
    · simp only [h, if_true, Except.ok.injEq, Prod.mk.injEq]
      constructor
      · rintro ⟨rfl, rfl⟩; exact ⟨⟨rfl, rfl⟩, h⟩
      · exact fun h => h.1
    · simp only [h]
      constructor
      · intro h'; simp at h'
      · rintro ⟨h1, h2⟩
        simp only [Except.ok.injEq, Prod.mk.injEq] at h1
        exact absurd (h1.1 ▸ h2) h

end Sys2Proof
end

