-- ==== Sys2Proof/Laws/State.lean ====
section
/-! SUPPORT. Beside State: what each update leaves in each field, one lemma per field per update. -/

namespace Sys2Proof.Machine

/-! ### setReg -/

@[simp] theorem setReg_cfg (i : Fin 5) (d : Byte) (s : State) : (setReg i d s).cfg = s.cfg := rfl
@[simp] theorem setReg_cyc (i : Fin 5) (d : Byte) (s : State) : (setReg i d s).cyc = s.cyc := rfl
@[simp] theorem setReg_reg (i : Fin 5) (d : Byte) (s : State) : (setReg i d s).reg = s.reg.set i d := rfl
@[simp] theorem setReg_period (i : Fin 5) (d : Byte) (s : State) : (setReg i d s).period = s.period := rfl
@[simp] theorem setReg_timer (i : Fin 5) (d : Byte) (s : State) : (setReg i d s).timer = s.timer := rfl
@[simp] theorem setReg_volume (i : Fin 5) (d : Byte) (s : State) : (setReg i d s).volume = s.volume := rfl
@[simp] theorem setReg_envCnt (i : Fin 5) (d : Byte) (s : State) : (setReg i d s).envCnt = s.envCnt := rfl
@[simp] theorem setReg_dstep (i : Fin 5) (d : Byte) (s : State) : (setReg i d s).dstep = s.dstep := rfl
@[simp] theorem setReg_wstep (i : Fin 5) (d : Byte) (s : State) : (setReg i d s).wstep = s.wstep := rfl
@[simp] theorem setReg_wram (i : Fin 5) (d : Byte) (s : State) : (setReg i d s).wram = s.wram := rfl
@[simp] theorem setReg_resp (i : Fin 5) (d : Byte) (s : State) : (setReg i d s).resp = s.resp := rfl
@[simp] theorem setReg_fired (i : Fin 5) (d : Byte) (s : State) : (setReg i d s).fired = s.fired := rfl
@[simp] theorem setReg_wrValid (i : Fin 5) (d : Byte) (s : State) : (setReg i d s).wrValid = s.wrValid := rfl
@[simp] theorem setReg_ni (i : Fin 5) (d : Byte) (s : State) : (setReg i d s).ni = s.ni := rfl
@[simp] theorem setReg_fault (i : Fin 5) (d : Byte) (s : State) : (setReg i d s).fault = s.fault := rfl
@[simp] theorem setReg_ring (i : Fin 5) (d : Byte) (s : State) : (setReg i d s).ring = s.ring := rfl
@[simp] theorem setReg_newest (i : Fin 5) (d : Byte) (s : State) : (setReg i d s).newest = s.newest := rfl
@[simp] theorem setReg_oldest (i : Fin 5) (d : Byte) (s : State) : (setReg i d s).oldest = s.oldest := rfl
@[simp] theorem setReg_pwe (i : Fin 5) (d : Byte) (s : State) : (setReg i d s).pwe = s.pwe := rfl
@[simp] theorem setReg_rc (i : Fin 5) (d : Byte) (s : State) : (setReg i d s).rc = s.rc := rfl
@[simp] theorem setReg_samples (i : Fin 5) (d : Byte) (s : State) : (setReg i d s).samples = s.samples := rfl
@[simp] theorem setReg_out (i : Fin 5) (d : Byte) (s : State) : (setReg i d s).out = s.out := rfl
@[simp] theorem setReg_lock (i : Fin 5) (d : Byte) (s : State) : (setReg i d s).lock = s.lock := rfl
@[simp] theorem setReg_emu (i : Fin 5) (d : Byte) (s : State) : (setReg i d s).emu = s.emu := rfl
@[simp] theorem setReg_render (i : Fin 5) (d : Byte) (s : State) : (setReg i d s).render = s.render := rfl
@[simp] theorem setReg_env (i : Fin 5) (d : Byte) (s : State) : (setReg i d s).env = s.env := rfl

/-! ### respond -/

@[simp] theorem respond_cfg (b : Byte) (s : State) : (respond b s).cfg = s.cfg := rfl
@[simp] theorem respond_cyc (b : Byte) (s : State) : (respond b s).cyc = s.cyc := rfl
@[simp] theorem respond_reg (b : Byte) (s : State) : (respond b s).reg = s.reg := rfl
@[simp] theorem respond_period (b : Byte) (s : State) : (respond b s).period = s.period := rfl
@[simp] theorem respond_timer (b : Byte) (s : State) : (respond b s).timer = s.timer := rfl
@[simp] theorem respond_volume (b : Byte) (s : State) : (respond b s).volume = s.volume := rfl
@[simp] theorem respond_envCnt (b : Byte) (s : State) : (respond b s).envCnt = s.envCnt := rfl
@[simp] theorem respond_dstep (b : Byte) (s : State) : (respond b s).dstep = s.dstep := rfl
@[simp] theorem respond_wstep (b : Byte) (s : State) : (respond b s).wstep = s.wstep := rfl
@[simp] theorem respond_wram (b : Byte) (s : State) : (respond b s).wram = s.wram := rfl
@[simp] theorem respond_resp (b : Byte) (s : State) : (respond b s).resp = b := rfl
@[simp] theorem respond_fired (b : Byte) (s : State) : (respond b s).fired = s.fired := rfl
@[simp] theorem respond_wrValid (b : Byte) (s : State) : (respond b s).wrValid = s.wrValid := rfl
@[simp] theorem respond_ni (b : Byte) (s : State) : (respond b s).ni = s.ni := rfl
@[simp] theorem respond_fault (b : Byte) (s : State) : (respond b s).fault = s.fault := rfl
@[simp] theorem respond_ring (b : Byte) (s : State) : (respond b s).ring = s.ring := rfl
@[simp] theorem respond_newest (b : Byte) (s : State) : (respond b s).newest = s.newest := rfl
@[simp] theorem respond_oldest (b : Byte) (s : State) : (respond b s).oldest = s.oldest := rfl
@[simp] theorem respond_pwe (b : Byte) (s : State) : (respond b s).pwe = s.pwe := rfl
@[simp] theorem respond_rc (b : Byte) (s : State) : (respond b s).rc = s.rc := rfl
@[simp] theorem respond_samples (b : Byte) (s : State) : (respond b s).samples = s.samples := rfl
@[simp] theorem respond_out (b : Byte) (s : State) : (respond b s).out = s.out := rfl
@[simp] theorem respond_lock (b : Byte) (s : State) : (respond b s).lock = s.lock := rfl
@[simp] theorem respond_emu (b : Byte) (s : State) : (respond b s).emu = s.emu := rfl
@[simp] theorem respond_render (b : Byte) (s : State) : (respond b s).render = s.render := rfl
@[simp] theorem respond_env (b : Byte) (s : State) : (respond b s).env = s.env := rfl

/-! ### setWram -/

@[simp] theorem setWram_cfg (i : Fin 16) (d : Byte) (s : State) : (setWram i d s).cfg = s.cfg := rfl
@[simp] theorem setWram_cyc (i : Fin 16) (d : Byte) (s : State) : (setWram i d s).cyc = s.cyc := rfl
@[simp] theorem setWram_reg (i : Fin 16) (d : Byte) (s : State) : (setWram i d s).reg = s.reg := rfl
@[simp] theorem setWram_period (i : Fin 16) (d : Byte) (s : State) : (setWram i d s).period = s.period := rfl
@[simp] theorem setWram_timer (i : Fin 16) (d : Byte) (s : State) : (setWram i d s).timer = s.timer := rfl
@[simp] theorem setWram_volume (i : Fin 16) (d : Byte) (s : State) : (setWram i d s).volume = s.volume := rfl
@[simp] theorem setWram_envCnt (i : Fin 16) (d : Byte) (s : State) : (setWram i d s).envCnt = s.envCnt := rfl
@[simp] theorem setWram_dstep (i : Fin 16) (d : Byte) (s : State) : (setWram i d s).dstep = s.dstep := rfl
@[simp] theorem setWram_wstep (i : Fin 16) (d : Byte) (s : State) : (setWram i d s).wstep = s.wstep := rfl
@[simp] theorem setWram_wram (i : Fin 16) (d : Byte) (s : State) : (setWram i d s).wram = s.wram.set i d := rfl
@[simp] theorem setWram_resp (i : Fin 16) (d : Byte) (s : State) : (setWram i d s).resp = s.resp := rfl
@[simp] theorem setWram_fired (i : Fin 16) (d : Byte) (s : State) : (setWram i d s).fired = s.fired := rfl
@[simp] theorem setWram_wrValid (i : Fin 16) (d : Byte) (s : State) : (setWram i d s).wrValid = s.wrValid := rfl
@[simp] theorem setWram_ni (i : Fin 16) (d : Byte) (s : State) : (setWram i d s).ni = s.ni := rfl
@[simp] theorem setWram_fault (i : Fin 16) (d : Byte) (s : State) : (setWram i d s).fault = s.fault := rfl
@[simp] theorem setWram_ring (i : Fin 16) (d : Byte) (s : State) : (setWram i d s).ring = s.ring := rfl
@[simp] theorem setWram_newest (i : Fin 16) (d : Byte) (s : State) : (setWram i d s).newest = s.newest := rfl
@[simp] theorem setWram_oldest (i : Fin 16) (d : Byte) (s : State) : (setWram i d s).oldest = s.oldest := rfl
@[simp] theorem setWram_pwe (i : Fin 16) (d : Byte) (s : State) : (setWram i d s).pwe = s.pwe := rfl
@[simp] theorem setWram_rc (i : Fin 16) (d : Byte) (s : State) : (setWram i d s).rc = s.rc := rfl
@[simp] theorem setWram_samples (i : Fin 16) (d : Byte) (s : State) : (setWram i d s).samples = s.samples := rfl
@[simp] theorem setWram_out (i : Fin 16) (d : Byte) (s : State) : (setWram i d s).out = s.out := rfl
@[simp] theorem setWram_lock (i : Fin 16) (d : Byte) (s : State) : (setWram i d s).lock = s.lock := rfl
@[simp] theorem setWram_emu (i : Fin 16) (d : Byte) (s : State) : (setWram i d s).emu = s.emu := rfl
@[simp] theorem setWram_render (i : Fin 16) (d : Byte) (s : State) : (setWram i d s).render = s.render := rfl
@[simp] theorem setWram_env (i : Fin 16) (d : Byte) (s : State) : (setWram i d s).env = s.env := rfl

/-! ### setSlot -/

@[simp] theorem setSlot_cfg (i : Nat) (r : Record) (s : State) : (setSlot i r s).cfg = s.cfg := rfl
@[simp] theorem setSlot_cyc (i : Nat) (r : Record) (s : State) : (setSlot i r s).cyc = s.cyc := rfl
@[simp] theorem setSlot_reg (i : Nat) (r : Record) (s : State) : (setSlot i r s).reg = s.reg := rfl
@[simp] theorem setSlot_period (i : Nat) (r : Record) (s : State) : (setSlot i r s).period = s.period := rfl
@[simp] theorem setSlot_timer (i : Nat) (r : Record) (s : State) : (setSlot i r s).timer = s.timer := rfl
@[simp] theorem setSlot_volume (i : Nat) (r : Record) (s : State) : (setSlot i r s).volume = s.volume := rfl
@[simp] theorem setSlot_envCnt (i : Nat) (r : Record) (s : State) : (setSlot i r s).envCnt = s.envCnt := rfl
@[simp] theorem setSlot_dstep (i : Nat) (r : Record) (s : State) : (setSlot i r s).dstep = s.dstep := rfl
@[simp] theorem setSlot_wstep (i : Nat) (r : Record) (s : State) : (setSlot i r s).wstep = s.wstep := rfl
@[simp] theorem setSlot_wram (i : Nat) (r : Record) (s : State) : (setSlot i r s).wram = s.wram := rfl
@[simp] theorem setSlot_resp (i : Nat) (r : Record) (s : State) : (setSlot i r s).resp = s.resp := rfl
@[simp] theorem setSlot_fired (i : Nat) (r : Record) (s : State) : (setSlot i r s).fired = s.fired := rfl
@[simp] theorem setSlot_wrValid (i : Nat) (r : Record) (s : State) : (setSlot i r s).wrValid = s.wrValid := rfl
@[simp] theorem setSlot_ni (i : Nat) (r : Record) (s : State) : (setSlot i r s).ni = s.ni := rfl
@[simp] theorem setSlot_fault (i : Nat) (r : Record) (s : State) : (setSlot i r s).fault = s.fault := rfl
@[simp] theorem setSlot_ring (i : Nat) (r : Record) (s : State) : (setSlot i r s).ring = Memory.write s.ring i r := rfl
@[simp] theorem setSlot_newest (i : Nat) (r : Record) (s : State) : (setSlot i r s).newest = s.newest := rfl
@[simp] theorem setSlot_oldest (i : Nat) (r : Record) (s : State) : (setSlot i r s).oldest = s.oldest := rfl
@[simp] theorem setSlot_pwe (i : Nat) (r : Record) (s : State) : (setSlot i r s).pwe = s.pwe := rfl
@[simp] theorem setSlot_rc (i : Nat) (r : Record) (s : State) : (setSlot i r s).rc = s.rc := rfl
@[simp] theorem setSlot_samples (i : Nat) (r : Record) (s : State) : (setSlot i r s).samples = s.samples := rfl
@[simp] theorem setSlot_out (i : Nat) (r : Record) (s : State) : (setSlot i r s).out = s.out := rfl
@[simp] theorem setSlot_lock (i : Nat) (r : Record) (s : State) : (setSlot i r s).lock = s.lock := rfl
@[simp] theorem setSlot_emu (i : Nat) (r : Record) (s : State) : (setSlot i r s).emu = s.emu := rfl
@[simp] theorem setSlot_render (i : Nat) (r : Record) (s : State) : (setSlot i r s).render = s.render := rfl
@[simp] theorem setSlot_env (i : Nat) (r : Record) (s : State) : (setSlot i r s).env = s.env := rfl

/-! ### setFrame -/

@[simp] theorem setFrame_cfg (k : Nat) (v : Int) (s : State) : (setFrame k v s).cfg = s.cfg := rfl
@[simp] theorem setFrame_cyc (k : Nat) (v : Int) (s : State) : (setFrame k v s).cyc = s.cyc := rfl
@[simp] theorem setFrame_reg (k : Nat) (v : Int) (s : State) : (setFrame k v s).reg = s.reg := rfl
@[simp] theorem setFrame_period (k : Nat) (v : Int) (s : State) : (setFrame k v s).period = s.period := rfl
@[simp] theorem setFrame_timer (k : Nat) (v : Int) (s : State) : (setFrame k v s).timer = s.timer := rfl
@[simp] theorem setFrame_volume (k : Nat) (v : Int) (s : State) : (setFrame k v s).volume = s.volume := rfl
@[simp] theorem setFrame_envCnt (k : Nat) (v : Int) (s : State) : (setFrame k v s).envCnt = s.envCnt := rfl
@[simp] theorem setFrame_dstep (k : Nat) (v : Int) (s : State) : (setFrame k v s).dstep = s.dstep := rfl
@[simp] theorem setFrame_wstep (k : Nat) (v : Int) (s : State) : (setFrame k v s).wstep = s.wstep := rfl
@[simp] theorem setFrame_wram (k : Nat) (v : Int) (s : State) : (setFrame k v s).wram = s.wram := rfl
@[simp] theorem setFrame_resp (k : Nat) (v : Int) (s : State) : (setFrame k v s).resp = s.resp := rfl
@[simp] theorem setFrame_fired (k : Nat) (v : Int) (s : State) : (setFrame k v s).fired = s.fired := rfl
@[simp] theorem setFrame_wrValid (k : Nat) (v : Int) (s : State) : (setFrame k v s).wrValid = s.wrValid := rfl
@[simp] theorem setFrame_ni (k : Nat) (v : Int) (s : State) : (setFrame k v s).ni = s.ni := rfl
@[simp] theorem setFrame_fault (k : Nat) (v : Int) (s : State) : (setFrame k v s).fault = s.fault := rfl
@[simp] theorem setFrame_ring (k : Nat) (v : Int) (s : State) : (setFrame k v s).ring = s.ring := rfl
@[simp] theorem setFrame_newest (k : Nat) (v : Int) (s : State) : (setFrame k v s).newest = s.newest := rfl
@[simp] theorem setFrame_oldest (k : Nat) (v : Int) (s : State) : (setFrame k v s).oldest = s.oldest := rfl
@[simp] theorem setFrame_pwe (k : Nat) (v : Int) (s : State) : (setFrame k v s).pwe = s.pwe := rfl
@[simp] theorem setFrame_rc (k : Nat) (v : Int) (s : State) : (setFrame k v s).rc = s.rc := rfl
@[simp] theorem setFrame_samples (k : Nat) (v : Int) (s : State) : (setFrame k v s).samples = s.samples := rfl
@[simp] theorem setFrame_out (k : Nat) (v : Int) (s : State) : (setFrame k v s).out = Memory.write s.out k v := rfl
@[simp] theorem setFrame_lock (k : Nat) (v : Int) (s : State) : (setFrame k v s).lock = s.lock := rfl
@[simp] theorem setFrame_emu (k : Nat) (v : Int) (s : State) : (setFrame k v s).emu = s.emu := rfl
@[simp] theorem setFrame_render (k : Nat) (v : Int) (s : State) : (setFrame k v s).render = s.render := rfl
@[simp] theorem setFrame_env (k : Nat) (v : Int) (s : State) : (setFrame k v s).env = s.env := rfl

/-! ### advanceCyc -/

@[simp] theorem advanceCyc_cfg (n : Nat) (s : State) : (advanceCyc n s).cfg = s.cfg := rfl
@[simp] theorem advanceCyc_cyc (n : Nat) (s : State) : (advanceCyc n s).cyc = BitVec.ofInt 64 (s.cyc.toInt + n) := rfl
@[simp] theorem advanceCyc_reg (n : Nat) (s : State) : (advanceCyc n s).reg = s.reg := rfl
@[simp] theorem advanceCyc_period (n : Nat) (s : State) : (advanceCyc n s).period = s.period := rfl
@[simp] theorem advanceCyc_timer (n : Nat) (s : State) : (advanceCyc n s).timer = s.timer := rfl
@[simp] theorem advanceCyc_volume (n : Nat) (s : State) : (advanceCyc n s).volume = s.volume := rfl
@[simp] theorem advanceCyc_envCnt (n : Nat) (s : State) : (advanceCyc n s).envCnt = s.envCnt := rfl
@[simp] theorem advanceCyc_dstep (n : Nat) (s : State) : (advanceCyc n s).dstep = s.dstep := rfl
@[simp] theorem advanceCyc_wstep (n : Nat) (s : State) : (advanceCyc n s).wstep = s.wstep := rfl
@[simp] theorem advanceCyc_wram (n : Nat) (s : State) : (advanceCyc n s).wram = s.wram := rfl
@[simp] theorem advanceCyc_resp (n : Nat) (s : State) : (advanceCyc n s).resp = s.resp := rfl
@[simp] theorem advanceCyc_fired (n : Nat) (s : State) : (advanceCyc n s).fired = s.fired := rfl
@[simp] theorem advanceCyc_wrValid (n : Nat) (s : State) : (advanceCyc n s).wrValid = s.wrValid := rfl
@[simp] theorem advanceCyc_ni (n : Nat) (s : State) : (advanceCyc n s).ni = s.ni := rfl
@[simp] theorem advanceCyc_fault (n : Nat) (s : State) : (advanceCyc n s).fault = s.fault := rfl
@[simp] theorem advanceCyc_ring (n : Nat) (s : State) : (advanceCyc n s).ring = s.ring := rfl
@[simp] theorem advanceCyc_newest (n : Nat) (s : State) : (advanceCyc n s).newest = s.newest := rfl
@[simp] theorem advanceCyc_oldest (n : Nat) (s : State) : (advanceCyc n s).oldest = s.oldest := rfl
@[simp] theorem advanceCyc_pwe (n : Nat) (s : State) : (advanceCyc n s).pwe = s.pwe := rfl
@[simp] theorem advanceCyc_rc (n : Nat) (s : State) : (advanceCyc n s).rc = s.rc := rfl
@[simp] theorem advanceCyc_samples (n : Nat) (s : State) : (advanceCyc n s).samples = s.samples := rfl
@[simp] theorem advanceCyc_out (n : Nat) (s : State) : (advanceCyc n s).out = s.out := rfl
@[simp] theorem advanceCyc_lock (n : Nat) (s : State) : (advanceCyc n s).lock = s.lock := rfl
@[simp] theorem advanceCyc_emu (n : Nat) (s : State) : (advanceCyc n s).emu = s.emu := rfl
@[simp] theorem advanceCyc_render (n : Nat) (s : State) : (advanceCyc n s).render = s.render := rfl
@[simp] theorem advanceCyc_env (n : Nat) (s : State) : (advanceCyc n s).env = s.env := rfl

/-! ### setFired -/

@[simp] theorem setFired_cfg (f : Bool) (s : State) : (setFired f s).cfg = s.cfg := rfl
@[simp] theorem setFired_cyc (f : Bool) (s : State) : (setFired f s).cyc = s.cyc := rfl
@[simp] theorem setFired_reg (f : Bool) (s : State) : (setFired f s).reg = s.reg := rfl
@[simp] theorem setFired_period (f : Bool) (s : State) : (setFired f s).period = s.period := rfl
@[simp] theorem setFired_timer (f : Bool) (s : State) : (setFired f s).timer = s.timer := rfl
@[simp] theorem setFired_volume (f : Bool) (s : State) : (setFired f s).volume = s.volume := rfl
@[simp] theorem setFired_envCnt (f : Bool) (s : State) : (setFired f s).envCnt = s.envCnt := rfl
@[simp] theorem setFired_dstep (f : Bool) (s : State) : (setFired f s).dstep = s.dstep := rfl
@[simp] theorem setFired_wstep (f : Bool) (s : State) : (setFired f s).wstep = s.wstep := rfl
@[simp] theorem setFired_wram (f : Bool) (s : State) : (setFired f s).wram = s.wram := rfl
@[simp] theorem setFired_resp (f : Bool) (s : State) : (setFired f s).resp = s.resp := rfl
@[simp] theorem setFired_fired (f : Bool) (s : State) : (setFired f s).fired = f := rfl
@[simp] theorem setFired_wrValid (f : Bool) (s : State) : (setFired f s).wrValid = s.wrValid := rfl
@[simp] theorem setFired_ni (f : Bool) (s : State) : (setFired f s).ni = s.ni := rfl
@[simp] theorem setFired_fault (f : Bool) (s : State) : (setFired f s).fault = s.fault := rfl
@[simp] theorem setFired_ring (f : Bool) (s : State) : (setFired f s).ring = s.ring := rfl
@[simp] theorem setFired_newest (f : Bool) (s : State) : (setFired f s).newest = s.newest := rfl
@[simp] theorem setFired_oldest (f : Bool) (s : State) : (setFired f s).oldest = s.oldest := rfl
@[simp] theorem setFired_pwe (f : Bool) (s : State) : (setFired f s).pwe = s.pwe := rfl
@[simp] theorem setFired_rc (f : Bool) (s : State) : (setFired f s).rc = s.rc := rfl
@[simp] theorem setFired_samples (f : Bool) (s : State) : (setFired f s).samples = s.samples := rfl
@[simp] theorem setFired_out (f : Bool) (s : State) : (setFired f s).out = s.out := rfl
@[simp] theorem setFired_lock (f : Bool) (s : State) : (setFired f s).lock = s.lock := rfl
@[simp] theorem setFired_emu (f : Bool) (s : State) : (setFired f s).emu = s.emu := rfl
@[simp] theorem setFired_render (f : Bool) (s : State) : (setFired f s).render = s.render := rfl
@[simp] theorem setFired_env (f : Bool) (s : State) : (setFired f s).env = s.env := rfl

/-! ### markWritten -/

@[simp] theorem markWritten_cfg (s : State) : (markWritten s).cfg = s.cfg := rfl
@[simp] theorem markWritten_cyc (s : State) : (markWritten s).cyc = s.cyc := rfl
@[simp] theorem markWritten_reg (s : State) : (markWritten s).reg = s.reg := rfl
@[simp] theorem markWritten_period (s : State) : (markWritten s).period = s.period := rfl
@[simp] theorem markWritten_timer (s : State) : (markWritten s).timer = s.timer := rfl
@[simp] theorem markWritten_volume (s : State) : (markWritten s).volume = s.volume := rfl
@[simp] theorem markWritten_envCnt (s : State) : (markWritten s).envCnt = s.envCnt := rfl
@[simp] theorem markWritten_dstep (s : State) : (markWritten s).dstep = s.dstep := rfl
@[simp] theorem markWritten_wstep (s : State) : (markWritten s).wstep = s.wstep := rfl
@[simp] theorem markWritten_wram (s : State) : (markWritten s).wram = s.wram := rfl
@[simp] theorem markWritten_resp (s : State) : (markWritten s).resp = s.resp := rfl
@[simp] theorem markWritten_fired (s : State) : (markWritten s).fired = s.fired := rfl
@[simp] theorem markWritten_wrValid (s : State) : (markWritten s).wrValid = true := rfl
@[simp] theorem markWritten_ni (s : State) : (markWritten s).ni = s.ni := rfl
@[simp] theorem markWritten_fault (s : State) : (markWritten s).fault = s.fault := rfl
@[simp] theorem markWritten_ring (s : State) : (markWritten s).ring = s.ring := rfl
@[simp] theorem markWritten_newest (s : State) : (markWritten s).newest = s.newest := rfl
@[simp] theorem markWritten_oldest (s : State) : (markWritten s).oldest = s.oldest := rfl
@[simp] theorem markWritten_pwe (s : State) : (markWritten s).pwe = s.pwe := rfl
@[simp] theorem markWritten_rc (s : State) : (markWritten s).rc = s.rc := rfl
@[simp] theorem markWritten_samples (s : State) : (markWritten s).samples = s.samples := rfl
@[simp] theorem markWritten_out (s : State) : (markWritten s).out = s.out := rfl
@[simp] theorem markWritten_lock (s : State) : (markWritten s).lock = s.lock := rfl
@[simp] theorem markWritten_emu (s : State) : (markWritten s).emu = s.emu := rfl
@[simp] theorem markWritten_render (s : State) : (markWritten s).render = s.render := rfl
@[simp] theorem markWritten_env (s : State) : (markWritten s).env = s.env := rfl

/-! ### reloadEnvelope -/

@[simp] theorem reloadEnvelope_cfg (s : State) : (reloadEnvelope s).cfg = s.cfg := rfl
@[simp] theorem reloadEnvelope_cyc (s : State) : (reloadEnvelope s).cyc = s.cyc := rfl
@[simp] theorem reloadEnvelope_reg (s : State) : (reloadEnvelope s).reg = s.reg := rfl
@[simp] theorem reloadEnvelope_period (s : State) : (reloadEnvelope s).period = s.period := rfl
@[simp] theorem reloadEnvelope_timer (s : State) : (reloadEnvelope s).timer = s.timer := rfl
@[simp] theorem reloadEnvelope_volume (s : State) : (reloadEnvelope s).volume = s.envInit := rfl
@[simp] theorem reloadEnvelope_envCnt (s : State) : (reloadEnvelope s).envCnt = 0 := rfl
@[simp] theorem reloadEnvelope_dstep (s : State) : (reloadEnvelope s).dstep = s.dstep := rfl
@[simp] theorem reloadEnvelope_wstep (s : State) : (reloadEnvelope s).wstep = s.wstep := rfl
@[simp] theorem reloadEnvelope_wram (s : State) : (reloadEnvelope s).wram = s.wram := rfl
@[simp] theorem reloadEnvelope_resp (s : State) : (reloadEnvelope s).resp = s.resp := rfl
@[simp] theorem reloadEnvelope_fired (s : State) : (reloadEnvelope s).fired = s.fired := rfl
@[simp] theorem reloadEnvelope_wrValid (s : State) : (reloadEnvelope s).wrValid = s.wrValid := rfl
@[simp] theorem reloadEnvelope_ni (s : State) : (reloadEnvelope s).ni = s.ni := rfl
@[simp] theorem reloadEnvelope_fault (s : State) : (reloadEnvelope s).fault = s.fault := rfl
@[simp] theorem reloadEnvelope_ring (s : State) : (reloadEnvelope s).ring = s.ring := rfl
@[simp] theorem reloadEnvelope_newest (s : State) : (reloadEnvelope s).newest = s.newest := rfl
@[simp] theorem reloadEnvelope_oldest (s : State) : (reloadEnvelope s).oldest = s.oldest := rfl
@[simp] theorem reloadEnvelope_pwe (s : State) : (reloadEnvelope s).pwe = s.pwe := rfl
@[simp] theorem reloadEnvelope_rc (s : State) : (reloadEnvelope s).rc = s.rc := rfl
@[simp] theorem reloadEnvelope_samples (s : State) : (reloadEnvelope s).samples = s.samples := rfl
@[simp] theorem reloadEnvelope_out (s : State) : (reloadEnvelope s).out = s.out := rfl
@[simp] theorem reloadEnvelope_lock (s : State) : (reloadEnvelope s).lock = s.lock := rfl
@[simp] theorem reloadEnvelope_emu (s : State) : (reloadEnvelope s).emu = s.emu := rfl
@[simp] theorem reloadEnvelope_render (s : State) : (reloadEnvelope s).render = s.render := rfl
@[simp] theorem reloadEnvelope_env (s : State) : (reloadEnvelope s).env = s.env := rfl

/-! ### stepVolume -/

@[simp] theorem stepVolume_cfg (s : State) : (stepVolume s).cfg = s.cfg := rfl
@[simp] theorem stepVolume_cyc (s : State) : (stepVolume s).cyc = s.cyc := rfl
@[simp] theorem stepVolume_reg (s : State) : (stepVolume s).reg = s.reg := rfl
@[simp] theorem stepVolume_period (s : State) : (stepVolume s).period = s.period := rfl
@[simp] theorem stepVolume_timer (s : State) : (stepVolume s).timer = s.timer := rfl
@[simp] theorem stepVolume_volume (s : State) : (stepVolume s).volume = rampVolume s.envDir s.volume := rfl
@[simp] theorem stepVolume_envCnt (s : State) : (stepVolume s).envCnt = s.envCnt := rfl
@[simp] theorem stepVolume_dstep (s : State) : (stepVolume s).dstep = s.dstep := rfl
@[simp] theorem stepVolume_wstep (s : State) : (stepVolume s).wstep = s.wstep := rfl
@[simp] theorem stepVolume_wram (s : State) : (stepVolume s).wram = s.wram := rfl
@[simp] theorem stepVolume_resp (s : State) : (stepVolume s).resp = s.resp := rfl
@[simp] theorem stepVolume_fired (s : State) : (stepVolume s).fired = s.fired := rfl
@[simp] theorem stepVolume_wrValid (s : State) : (stepVolume s).wrValid = s.wrValid := rfl
@[simp] theorem stepVolume_ni (s : State) : (stepVolume s).ni = s.ni := rfl
@[simp] theorem stepVolume_fault (s : State) : (stepVolume s).fault = s.fault := rfl
@[simp] theorem stepVolume_ring (s : State) : (stepVolume s).ring = s.ring := rfl
@[simp] theorem stepVolume_newest (s : State) : (stepVolume s).newest = s.newest := rfl
@[simp] theorem stepVolume_oldest (s : State) : (stepVolume s).oldest = s.oldest := rfl
@[simp] theorem stepVolume_pwe (s : State) : (stepVolume s).pwe = s.pwe := rfl
@[simp] theorem stepVolume_rc (s : State) : (stepVolume s).rc = s.rc := rfl
@[simp] theorem stepVolume_samples (s : State) : (stepVolume s).samples = s.samples := rfl
@[simp] theorem stepVolume_out (s : State) : (stepVolume s).out = s.out := rfl
@[simp] theorem stepVolume_lock (s : State) : (stepVolume s).lock = s.lock := rfl
@[simp] theorem stepVolume_emu (s : State) : (stepVolume s).emu = s.emu := rfl
@[simp] theorem stepVolume_render (s : State) : (stepVolume s).render = s.render := rfl
@[simp] theorem stepVolume_env (s : State) : (stepVolume s).env = s.env := rfl

/-! ### recomputePeriod -/

@[simp] theorem recomputePeriod_cfg (s : State) : (recomputePeriod s).cfg = s.cfg := rfl
@[simp] theorem recomputePeriod_cyc (s : State) : (recomputePeriod s).cyc = s.cyc := rfl
@[simp] theorem recomputePeriod_reg (s : State) : (recomputePeriod s).reg = s.reg := rfl
@[simp] theorem recomputePeriod_period (s : State) : (recomputePeriod s).period = periodOf s.cfg.kind s.code := rfl
@[simp] theorem recomputePeriod_timer (s : State) : (recomputePeriod s).timer = s.timer := rfl
@[simp] theorem recomputePeriod_volume (s : State) : (recomputePeriod s).volume = s.volume := rfl
@[simp] theorem recomputePeriod_envCnt (s : State) : (recomputePeriod s).envCnt = s.envCnt := rfl
@[simp] theorem recomputePeriod_dstep (s : State) : (recomputePeriod s).dstep = s.dstep := rfl
@[simp] theorem recomputePeriod_wstep (s : State) : (recomputePeriod s).wstep = s.wstep := rfl
@[simp] theorem recomputePeriod_wram (s : State) : (recomputePeriod s).wram = s.wram := rfl
@[simp] theorem recomputePeriod_resp (s : State) : (recomputePeriod s).resp = s.resp := rfl
@[simp] theorem recomputePeriod_fired (s : State) : (recomputePeriod s).fired = s.fired := rfl
@[simp] theorem recomputePeriod_wrValid (s : State) : (recomputePeriod s).wrValid = s.wrValid := rfl
@[simp] theorem recomputePeriod_ni (s : State) : (recomputePeriod s).ni = s.ni := rfl
@[simp] theorem recomputePeriod_fault (s : State) : (recomputePeriod s).fault = s.fault := rfl
@[simp] theorem recomputePeriod_ring (s : State) : (recomputePeriod s).ring = s.ring := rfl
@[simp] theorem recomputePeriod_newest (s : State) : (recomputePeriod s).newest = s.newest := rfl
@[simp] theorem recomputePeriod_oldest (s : State) : (recomputePeriod s).oldest = s.oldest := rfl
@[simp] theorem recomputePeriod_pwe (s : State) : (recomputePeriod s).pwe = s.pwe := rfl
@[simp] theorem recomputePeriod_rc (s : State) : (recomputePeriod s).rc = s.rc := rfl
@[simp] theorem recomputePeriod_samples (s : State) : (recomputePeriod s).samples = s.samples := rfl
@[simp] theorem recomputePeriod_out (s : State) : (recomputePeriod s).out = s.out := rfl
@[simp] theorem recomputePeriod_lock (s : State) : (recomputePeriod s).lock = s.lock := rfl
@[simp] theorem recomputePeriod_emu (s : State) : (recomputePeriod s).emu = s.emu := rfl
@[simp] theorem recomputePeriod_render (s : State) : (recomputePeriod s).render = s.render := rfl
@[simp] theorem recomputePeriod_env (s : State) : (recomputePeriod s).env = s.env := rfl

/-! ### raise -/

@[simp] theorem raise_cfg (x : FaultCode) (s : State) : (raise x s).cfg = s.cfg := by unfold raise; split <;> simp_all
@[simp] theorem raise_cyc (x : FaultCode) (s : State) : (raise x s).cyc = s.cyc := by unfold raise; split <;> simp_all
@[simp] theorem raise_reg (x : FaultCode) (s : State) : (raise x s).reg = s.reg := by unfold raise; split <;> simp_all
@[simp] theorem raise_period (x : FaultCode) (s : State) : (raise x s).period = s.period := by unfold raise; split <;> simp_all
@[simp] theorem raise_timer (x : FaultCode) (s : State) : (raise x s).timer = s.timer := by unfold raise; split <;> simp_all
@[simp] theorem raise_volume (x : FaultCode) (s : State) : (raise x s).volume = s.volume := by unfold raise; split <;> simp_all
@[simp] theorem raise_envCnt (x : FaultCode) (s : State) : (raise x s).envCnt = s.envCnt := by unfold raise; split <;> simp_all
@[simp] theorem raise_dstep (x : FaultCode) (s : State) : (raise x s).dstep = s.dstep := by unfold raise; split <;> simp_all
@[simp] theorem raise_wstep (x : FaultCode) (s : State) : (raise x s).wstep = s.wstep := by unfold raise; split <;> simp_all
@[simp] theorem raise_wram (x : FaultCode) (s : State) : (raise x s).wram = s.wram := by unfold raise; split <;> simp_all
@[simp] theorem raise_resp (x : FaultCode) (s : State) : (raise x s).resp = s.resp := by unfold raise; split <;> simp_all
@[simp] theorem raise_fired (x : FaultCode) (s : State) : (raise x s).fired = s.fired := by unfold raise; split <;> simp_all
@[simp] theorem raise_wrValid (x : FaultCode) (s : State) : (raise x s).wrValid = s.wrValid := by unfold raise; split <;> simp_all
@[simp] theorem raise_ni (x : FaultCode) (s : State) : (raise x s).ni = s.ni := by unfold raise; split <;> simp_all
@[simp] theorem raise_fault (x : FaultCode) (s : State) : (raise x s).fault = if s.fault = .none then x else s.fault := by unfold raise; split <;> simp_all
@[simp] theorem raise_ring (x : FaultCode) (s : State) : (raise x s).ring = s.ring := by unfold raise; split <;> simp_all
@[simp] theorem raise_newest (x : FaultCode) (s : State) : (raise x s).newest = s.newest := by unfold raise; split <;> simp_all
@[simp] theorem raise_oldest (x : FaultCode) (s : State) : (raise x s).oldest = s.oldest := by unfold raise; split <;> simp_all
@[simp] theorem raise_pwe (x : FaultCode) (s : State) : (raise x s).pwe = s.pwe := by unfold raise; split <;> simp_all
@[simp] theorem raise_rc (x : FaultCode) (s : State) : (raise x s).rc = s.rc := by unfold raise; split <;> simp_all
@[simp] theorem raise_samples (x : FaultCode) (s : State) : (raise x s).samples = s.samples := by unfold raise; split <;> simp_all
@[simp] theorem raise_out (x : FaultCode) (s : State) : (raise x s).out = s.out := by unfold raise; split <;> simp_all
@[simp] theorem raise_lock (x : FaultCode) (s : State) : (raise x s).lock = s.lock := by unfold raise; split <;> simp_all
@[simp] theorem raise_emu (x : FaultCode) (s : State) : (raise x s).emu = s.emu := by unfold raise; split <;> simp_all
@[simp] theorem raise_render (x : FaultCode) (s : State) : (raise x s).render = s.render := by unfold raise; split <;> simp_all
@[simp] theorem raise_env (x : FaultCode) (s : State) : (raise x s).env = s.env := by unfold raise; split <;> simp_all

/-! ### markSweep -/

@[simp] theorem markSweep_cfg (d : Byte) (s : State) : (markSweep d s).cfg = s.cfg := by unfold markSweep; split <;> rfl
@[simp] theorem markSweep_cyc (d : Byte) (s : State) : (markSweep d s).cyc = s.cyc := by unfold markSweep; split <;> rfl
@[simp] theorem markSweep_reg (d : Byte) (s : State) : (markSweep d s).reg = s.reg := by unfold markSweep; split <;> rfl
@[simp] theorem markSweep_period (d : Byte) (s : State) : (markSweep d s).period = s.period := by unfold markSweep; split <;> rfl
@[simp] theorem markSweep_timer (d : Byte) (s : State) : (markSweep d s).timer = s.timer := by unfold markSweep; split <;> rfl
@[simp] theorem markSweep_volume (d : Byte) (s : State) : (markSweep d s).volume = s.volume := by unfold markSweep; split <;> rfl
@[simp] theorem markSweep_envCnt (d : Byte) (s : State) : (markSweep d s).envCnt = s.envCnt := by unfold markSweep; split <;> rfl
@[simp] theorem markSweep_dstep (d : Byte) (s : State) : (markSweep d s).dstep = s.dstep := by unfold markSweep; split <;> rfl
@[simp] theorem markSweep_wstep (d : Byte) (s : State) : (markSweep d s).wstep = s.wstep := by unfold markSweep; split <;> rfl
@[simp] theorem markSweep_wram (d : Byte) (s : State) : (markSweep d s).wram = s.wram := by unfold markSweep; split <;> rfl
@[simp] theorem markSweep_resp (d : Byte) (s : State) : (markSweep d s).resp = s.resp := by unfold markSweep; split <;> rfl
@[simp] theorem markSweep_fired (d : Byte) (s : State) : (markSweep d s).fired = s.fired := by unfold markSweep; split <;> rfl
@[simp] theorem markSweep_wrValid (d : Byte) (s : State) : (markSweep d s).wrValid = s.wrValid := by unfold markSweep; split <;> rfl
@[simp] theorem markSweep_ni (d : Byte) (s : State) : (markSweep d s).ni = if d = 0 then s.ni else { s.ni with sweep := true } := by unfold markSweep; split <;> rfl
@[simp] theorem markSweep_fault (d : Byte) (s : State) : (markSweep d s).fault = s.fault := by unfold markSweep; split <;> rfl
@[simp] theorem markSweep_ring (d : Byte) (s : State) : (markSweep d s).ring = s.ring := by unfold markSweep; split <;> rfl
@[simp] theorem markSweep_newest (d : Byte) (s : State) : (markSweep d s).newest = s.newest := by unfold markSweep; split <;> rfl
@[simp] theorem markSweep_oldest (d : Byte) (s : State) : (markSweep d s).oldest = s.oldest := by unfold markSweep; split <;> rfl
@[simp] theorem markSweep_pwe (d : Byte) (s : State) : (markSweep d s).pwe = s.pwe := by unfold markSweep; split <;> rfl
@[simp] theorem markSweep_rc (d : Byte) (s : State) : (markSweep d s).rc = s.rc := by unfold markSweep; split <;> rfl
@[simp] theorem markSweep_samples (d : Byte) (s : State) : (markSweep d s).samples = s.samples := by unfold markSweep; split <;> rfl
@[simp] theorem markSweep_out (d : Byte) (s : State) : (markSweep d s).out = s.out := by unfold markSweep; split <;> rfl
@[simp] theorem markSweep_lock (d : Byte) (s : State) : (markSweep d s).lock = s.lock := by unfold markSweep; split <;> rfl
@[simp] theorem markSweep_emu (d : Byte) (s : State) : (markSweep d s).emu = s.emu := by unfold markSweep; split <;> rfl
@[simp] theorem markSweep_render (d : Byte) (s : State) : (markSweep d s).render = s.render := by unfold markSweep; split <;> rfl
@[simp] theorem markSweep_env (d : Byte) (s : State) : (markSweep d s).env = s.env := by unfold markSweep; split <;> rfl

/-! ### markLength -/

@[simp] theorem markLength_cfg (d : Byte) (s : State) : (markLength d s).cfg = s.cfg := by unfold markLength; split <;> rfl
@[simp] theorem markLength_cyc (d : Byte) (s : State) : (markLength d s).cyc = s.cyc := by unfold markLength; split <;> rfl
@[simp] theorem markLength_reg (d : Byte) (s : State) : (markLength d s).reg = s.reg := by unfold markLength; split <;> rfl
@[simp] theorem markLength_period (d : Byte) (s : State) : (markLength d s).period = s.period := by unfold markLength; split <;> rfl
@[simp] theorem markLength_timer (d : Byte) (s : State) : (markLength d s).timer = s.timer := by unfold markLength; split <;> rfl
@[simp] theorem markLength_volume (d : Byte) (s : State) : (markLength d s).volume = s.volume := by unfold markLength; split <;> rfl
@[simp] theorem markLength_envCnt (d : Byte) (s : State) : (markLength d s).envCnt = s.envCnt := by unfold markLength; split <;> rfl
@[simp] theorem markLength_dstep (d : Byte) (s : State) : (markLength d s).dstep = s.dstep := by unfold markLength; split <;> rfl
@[simp] theorem markLength_wstep (d : Byte) (s : State) : (markLength d s).wstep = s.wstep := by unfold markLength; split <;> rfl
@[simp] theorem markLength_wram (d : Byte) (s : State) : (markLength d s).wram = s.wram := by unfold markLength; split <;> rfl
@[simp] theorem markLength_resp (d : Byte) (s : State) : (markLength d s).resp = s.resp := by unfold markLength; split <;> rfl
@[simp] theorem markLength_fired (d : Byte) (s : State) : (markLength d s).fired = s.fired := by unfold markLength; split <;> rfl
@[simp] theorem markLength_wrValid (d : Byte) (s : State) : (markLength d s).wrValid = s.wrValid := by unfold markLength; split <;> rfl
@[simp] theorem markLength_ni (d : Byte) (s : State) : (markLength d s).ni = if fhiLenEn d then { s.ni with length := true } else s.ni := by unfold markLength; split <;> rfl
@[simp] theorem markLength_fault (d : Byte) (s : State) : (markLength d s).fault = s.fault := by unfold markLength; split <;> rfl
@[simp] theorem markLength_ring (d : Byte) (s : State) : (markLength d s).ring = s.ring := by unfold markLength; split <;> rfl
@[simp] theorem markLength_newest (d : Byte) (s : State) : (markLength d s).newest = s.newest := by unfold markLength; split <;> rfl
@[simp] theorem markLength_oldest (d : Byte) (s : State) : (markLength d s).oldest = s.oldest := by unfold markLength; split <;> rfl
@[simp] theorem markLength_pwe (d : Byte) (s : State) : (markLength d s).pwe = s.pwe := by unfold markLength; split <;> rfl
@[simp] theorem markLength_rc (d : Byte) (s : State) : (markLength d s).rc = s.rc := by unfold markLength; split <;> rfl
@[simp] theorem markLength_samples (d : Byte) (s : State) : (markLength d s).samples = s.samples := by unfold markLength; split <;> rfl
@[simp] theorem markLength_out (d : Byte) (s : State) : (markLength d s).out = s.out := by unfold markLength; split <;> rfl
@[simp] theorem markLength_lock (d : Byte) (s : State) : (markLength d s).lock = s.lock := by unfold markLength; split <;> rfl
@[simp] theorem markLength_emu (d : Byte) (s : State) : (markLength d s).emu = s.emu := by unfold markLength; split <;> rfl
@[simp] theorem markLength_render (d : Byte) (s : State) : (markLength d s).render = s.render := by unfold markLength; split <;> rfl
@[simp] theorem markLength_env (d : Byte) (s : State) : (markLength d s).env = s.env := by unfold markLength; split <;> rfl

/-! ### advanceStep -/

@[simp] theorem advanceStep_cfg (s : State) : (advanceStep s).cfg = s.cfg := by unfold advanceStep; split <;> simp_all
@[simp] theorem advanceStep_cyc (s : State) : (advanceStep s).cyc = s.cyc := by unfold advanceStep; split <;> simp_all
@[simp] theorem advanceStep_reg (s : State) : (advanceStep s).reg = s.reg := by unfold advanceStep; split <;> simp_all
@[simp] theorem advanceStep_period (s : State) : (advanceStep s).period = s.period := by unfold advanceStep; split <;> simp_all
@[simp] theorem advanceStep_timer (s : State) : (advanceStep s).timer = s.timer := by unfold advanceStep; split <;> simp_all
@[simp] theorem advanceStep_volume (s : State) : (advanceStep s).volume = s.volume := by unfold advanceStep; split <;> simp_all
@[simp] theorem advanceStep_envCnt (s : State) : (advanceStep s).envCnt = s.envCnt := by unfold advanceStep; split <;> simp_all
@[simp] theorem advanceStep_dstep (s : State) : (advanceStep s).dstep = if s.cfg.kind = .square then s.dstep + 1 else s.dstep := by unfold advanceStep; split <;> simp_all
@[simp] theorem advanceStep_wstep (s : State) : (advanceStep s).wstep = if s.cfg.kind = .wave then s.wstep + 1 else s.wstep := by unfold advanceStep; split <;> simp_all
@[simp] theorem advanceStep_wram (s : State) : (advanceStep s).wram = s.wram := by unfold advanceStep; split <;> simp_all
@[simp] theorem advanceStep_resp (s : State) : (advanceStep s).resp = s.resp := by unfold advanceStep; split <;> simp_all
@[simp] theorem advanceStep_fired (s : State) : (advanceStep s).fired = s.fired := by unfold advanceStep; split <;> simp_all
@[simp] theorem advanceStep_wrValid (s : State) : (advanceStep s).wrValid = s.wrValid := by unfold advanceStep; split <;> simp_all
@[simp] theorem advanceStep_ni (s : State) : (advanceStep s).ni = s.ni := by unfold advanceStep; split <;> simp_all
@[simp] theorem advanceStep_fault (s : State) : (advanceStep s).fault = s.fault := by unfold advanceStep; split <;> simp_all
@[simp] theorem advanceStep_ring (s : State) : (advanceStep s).ring = s.ring := by unfold advanceStep; split <;> simp_all
@[simp] theorem advanceStep_newest (s : State) : (advanceStep s).newest = s.newest := by unfold advanceStep; split <;> simp_all
@[simp] theorem advanceStep_oldest (s : State) : (advanceStep s).oldest = s.oldest := by unfold advanceStep; split <;> simp_all
@[simp] theorem advanceStep_pwe (s : State) : (advanceStep s).pwe = s.pwe := by unfold advanceStep; split <;> simp_all
@[simp] theorem advanceStep_rc (s : State) : (advanceStep s).rc = s.rc := by unfold advanceStep; split <;> simp_all
@[simp] theorem advanceStep_samples (s : State) : (advanceStep s).samples = s.samples := by unfold advanceStep; split <;> simp_all
@[simp] theorem advanceStep_out (s : State) : (advanceStep s).out = s.out := by unfold advanceStep; split <;> simp_all
@[simp] theorem advanceStep_lock (s : State) : (advanceStep s).lock = s.lock := by unfold advanceStep; split <;> simp_all
@[simp] theorem advanceStep_emu (s : State) : (advanceStep s).emu = s.emu := by unfold advanceStep; split <;> simp_all
@[simp] theorem advanceStep_render (s : State) : (advanceStep s).render = s.render := by unfold advanceStep; split <;> simp_all
@[simp] theorem advanceStep_env (s : State) : (advanceStep s).env = s.env := by unfold advanceStep; split <;> simp_all

/-! ### setPort -/

@[simp] theorem setPort_cfg (a : Agent) (ws : List Word) (s : State) : (setPort a ws s).cfg = s.cfg := by cases a <;> rfl
@[simp] theorem setPort_cyc (a : Agent) (ws : List Word) (s : State) : (setPort a ws s).cyc = s.cyc := by cases a <;> rfl
@[simp] theorem setPort_reg (a : Agent) (ws : List Word) (s : State) : (setPort a ws s).reg = s.reg := by cases a <;> rfl
@[simp] theorem setPort_period (a : Agent) (ws : List Word) (s : State) : (setPort a ws s).period = s.period := by cases a <;> rfl
@[simp] theorem setPort_timer (a : Agent) (ws : List Word) (s : State) : (setPort a ws s).timer = s.timer := by cases a <;> rfl
@[simp] theorem setPort_volume (a : Agent) (ws : List Word) (s : State) : (setPort a ws s).volume = s.volume := by cases a <;> rfl
@[simp] theorem setPort_envCnt (a : Agent) (ws : List Word) (s : State) : (setPort a ws s).envCnt = s.envCnt := by cases a <;> rfl
@[simp] theorem setPort_dstep (a : Agent) (ws : List Word) (s : State) : (setPort a ws s).dstep = s.dstep := by cases a <;> rfl
@[simp] theorem setPort_wstep (a : Agent) (ws : List Word) (s : State) : (setPort a ws s).wstep = s.wstep := by cases a <;> rfl
@[simp] theorem setPort_wram (a : Agent) (ws : List Word) (s : State) : (setPort a ws s).wram = s.wram := by cases a <;> rfl
@[simp] theorem setPort_resp (a : Agent) (ws : List Word) (s : State) : (setPort a ws s).resp = s.resp := by cases a <;> rfl
@[simp] theorem setPort_fired (a : Agent) (ws : List Word) (s : State) : (setPort a ws s).fired = s.fired := by cases a <;> rfl
@[simp] theorem setPort_wrValid (a : Agent) (ws : List Word) (s : State) : (setPort a ws s).wrValid = s.wrValid := by cases a <;> rfl
@[simp] theorem setPort_ni (a : Agent) (ws : List Word) (s : State) : (setPort a ws s).ni = s.ni := by cases a <;> rfl
@[simp] theorem setPort_fault (a : Agent) (ws : List Word) (s : State) : (setPort a ws s).fault = s.fault := by cases a <;> rfl
@[simp] theorem setPort_ring (a : Agent) (ws : List Word) (s : State) : (setPort a ws s).ring = s.ring := by cases a <;> rfl
@[simp] theorem setPort_newest (a : Agent) (ws : List Word) (s : State) : (setPort a ws s).newest = s.newest := by cases a <;> rfl
@[simp] theorem setPort_oldest (a : Agent) (ws : List Word) (s : State) : (setPort a ws s).oldest = s.oldest := by cases a <;> rfl
@[simp] theorem setPort_pwe (a : Agent) (ws : List Word) (s : State) : (setPort a ws s).pwe = s.pwe := by cases a <;> rfl
@[simp] theorem setPort_rc (a : Agent) (ws : List Word) (s : State) : (setPort a ws s).rc = s.rc := by cases a <;> rfl
@[simp] theorem setPort_samples (a : Agent) (ws : List Word) (s : State) : (setPort a ws s).samples = s.samples := by cases a <;> rfl
@[simp] theorem setPort_out (a : Agent) (ws : List Word) (s : State) : (setPort a ws s).out = s.out := by cases a <;> rfl
@[simp] theorem setPort_lock (a : Agent) (ws : List Word) (s : State) : (setPort a ws s).lock = s.lock := by cases a <;> rfl
@[simp] theorem setPort_emu (a : Agent) (ws : List Word) (s : State) : (setPort a ws s).emu = s.emu := by cases a <;> rfl
@[simp] theorem setPort_render (a : Agent) (ws : List Word) (s : State) : (setPort a ws s).render = s.render := by cases a <;> rfl

/-! ### takeTurn -/

@[simp] theorem takeTurn_cfg (s : State) : (takeTurn s).cfg = s.cfg := by unfold takeTurn; split <;> rfl
@[simp] theorem takeTurn_cyc (s : State) : (takeTurn s).cyc = s.cyc := by unfold takeTurn; split <;> rfl
@[simp] theorem takeTurn_reg (s : State) : (takeTurn s).reg = s.reg := by unfold takeTurn; split <;> rfl
@[simp] theorem takeTurn_period (s : State) : (takeTurn s).period = s.period := by unfold takeTurn; split <;> rfl
@[simp] theorem takeTurn_timer (s : State) : (takeTurn s).timer = s.timer := by unfold takeTurn; split <;> rfl
@[simp] theorem takeTurn_volume (s : State) : (takeTurn s).volume = s.volume := by unfold takeTurn; split <;> rfl
@[simp] theorem takeTurn_envCnt (s : State) : (takeTurn s).envCnt = s.envCnt := by unfold takeTurn; split <;> rfl
@[simp] theorem takeTurn_dstep (s : State) : (takeTurn s).dstep = s.dstep := by unfold takeTurn; split <;> rfl
@[simp] theorem takeTurn_wstep (s : State) : (takeTurn s).wstep = s.wstep := by unfold takeTurn; split <;> rfl
@[simp] theorem takeTurn_wram (s : State) : (takeTurn s).wram = s.wram := by unfold takeTurn; split <;> rfl
@[simp] theorem takeTurn_resp (s : State) : (takeTurn s).resp = s.resp := by unfold takeTurn; split <;> rfl
@[simp] theorem takeTurn_fired (s : State) : (takeTurn s).fired = s.fired := by unfold takeTurn; split <;> rfl
@[simp] theorem takeTurn_wrValid (s : State) : (takeTurn s).wrValid = s.wrValid := by unfold takeTurn; split <;> rfl
@[simp] theorem takeTurn_ni (s : State) : (takeTurn s).ni = s.ni := by unfold takeTurn; split <;> rfl
@[simp] theorem takeTurn_fault (s : State) : (takeTurn s).fault = s.fault := by unfold takeTurn; split <;> rfl
@[simp] theorem takeTurn_ring (s : State) : (takeTurn s).ring = s.ring := by unfold takeTurn; split <;> rfl
@[simp] theorem takeTurn_newest (s : State) : (takeTurn s).newest = s.newest := by unfold takeTurn; split <;> rfl
@[simp] theorem takeTurn_oldest (s : State) : (takeTurn s).oldest = s.oldest := by unfold takeTurn; split <;> rfl
@[simp] theorem takeTurn_pwe (s : State) : (takeTurn s).pwe = s.pwe := by unfold takeTurn; split <;> rfl
@[simp] theorem takeTurn_rc (s : State) : (takeTurn s).rc = s.rc := by unfold takeTurn; split <;> rfl
@[simp] theorem takeTurn_samples (s : State) : (takeTurn s).samples = s.samples := by unfold takeTurn; split <;> rfl
@[simp] theorem takeTurn_out (s : State) : (takeTurn s).out = s.out := by unfold takeTurn; split <;> rfl
@[simp] theorem takeTurn_lock (s : State) : (takeTurn s).lock = s.lock := by unfold takeTurn; split <;> rfl
@[simp] theorem takeTurn_emu (s : State) : (takeTurn s).emu = s.emu := by unfold takeTurn; split <;> rfl
@[simp] theorem takeTurn_render (s : State) : (takeTurn s).render = s.render := by unfold takeTurn; split <;> rfl

/-! ### Reset -/

@[simp] theorem powerOn_cfg (cfg : Params) (out : Memory Int) (env : Env) : (State.powerOn cfg out env).cfg = cfg := rfl
@[simp] theorem powerOn_cyc (cfg : Params) (out : Memory Int) (env : Env) : (State.powerOn cfg out env).cyc = 0 := rfl
@[simp] theorem powerOn_reg (cfg : Params) (out : Memory Int) (env : Env) : (State.powerOn cfg out env).reg = Vector.replicate 5 0 := rfl
@[simp] theorem powerOn_period (cfg : Params) (out : Memory Int) (env : Env) : (State.powerOn cfg out env).period = 0 := rfl
@[simp] theorem powerOn_timer (cfg : Params) (out : Memory Int) (env : Env) : (State.powerOn cfg out env).timer = 0 := rfl
@[simp] theorem powerOn_volume (cfg : Params) (out : Memory Int) (env : Env) : (State.powerOn cfg out env).volume = 0 := rfl
@[simp] theorem powerOn_envCnt (cfg : Params) (out : Memory Int) (env : Env) : (State.powerOn cfg out env).envCnt = 0 := rfl
@[simp] theorem powerOn_dstep (cfg : Params) (out : Memory Int) (env : Env) : (State.powerOn cfg out env).dstep = 0 := rfl
@[simp] theorem powerOn_wstep (cfg : Params) (out : Memory Int) (env : Env) : (State.powerOn cfg out env).wstep = 0 := rfl
@[simp] theorem powerOn_wram (cfg : Params) (out : Memory Int) (env : Env) : (State.powerOn cfg out env).wram = cfg.wramReset := rfl
@[simp] theorem powerOn_resp (cfg : Params) (out : Memory Int) (env : Env) : (State.powerOn cfg out env).resp = 0 := rfl
@[simp] theorem powerOn_fired (cfg : Params) (out : Memory Int) (env : Env) : (State.powerOn cfg out env).fired = false := rfl
@[simp] theorem powerOn_wrValid (cfg : Params) (out : Memory Int) (env : Env) : (State.powerOn cfg out env).wrValid = false := rfl
@[simp] theorem powerOn_ni (cfg : Params) (out : Memory Int) (env : Env) : (State.powerOn cfg out env).ni = ⟨false, false⟩ := rfl
@[simp] theorem powerOn_fault (cfg : Params) (out : Memory Int) (env : Env) : (State.powerOn cfg out env).fault = .none := rfl
@[simp] theorem powerOn_ring (cfg : Params) (out : Memory Int) (env : Env) : (State.powerOn cfg out env).ring = [] := rfl
@[simp] theorem powerOn_newest (cfg : Params) (out : Memory Int) (env : Env) : (State.powerOn cfg out env).newest = 0 := rfl
@[simp] theorem powerOn_oldest (cfg : Params) (out : Memory Int) (env : Env) : (State.powerOn cfg out env).oldest = 0 := rfl
@[simp] theorem powerOn_pwe (cfg : Params) (out : Memory Int) (env : Env) : (State.powerOn cfg out env).pwe = 0 := rfl
@[simp] theorem powerOn_rc (cfg : Params) (out : Memory Int) (env : Env) : (State.powerOn cfg out env).rc = 0 := rfl
@[simp] theorem powerOn_samples (cfg : Params) (out : Memory Int) (env : Env) : (State.powerOn cfg out env).samples = 0 := rfl
@[simp] theorem powerOn_out (cfg : Params) (out : Memory Int) (env : Env) : (State.powerOn cfg out env).out = out := rfl
@[simp] theorem powerOn_lock (cfg : Params) (out : Memory Int) (env : Env) : (State.powerOn cfg out env).lock = .free := rfl
@[simp] theorem powerOn_emu (cfg : Params) (out : Memory Int) (env : Env) : (State.powerOn cfg out env).emu = none := rfl
@[simp] theorem powerOn_render (cfg : Params) (out : Memory Int) (env : Env) : (State.powerOn cfg out env).render = none := rfl
@[simp] theorem powerOn_env (cfg : Params) (out : Memory Int) (env : Env) : (State.powerOn cfg out env).env = env := rfl

end Sys2Proof.Machine
end

