-- ==== Sys2Proof/Laws/Ops.lean ====
section
/-! SUPPORT. Laws of the shared operations: storage, cursors, faults, ring slots, ports. One lemma says all an operation can do. -/

namespace Sys2Proof.Machine

/-! ### Storage -/

theorem Memory.read_write_same {α : Type} (m : Memory α) (a : Nat) (v : α) :
    Memory.read (Memory.write m a v) a = some v := by
  induction m with
  | nil => simp [Memory.write, Memory.read]
  | cons c rest ih =>
    obtain ⟨b, w⟩ := c
    simp only [Memory.write]
    split
    · simp [Memory.read]
    · split
      · simp [Memory.read]
      · rename_i _ h
        simp [Memory.read, h, ih]

theorem Memory.read_write_other {α : Type} (m : Memory α) (a b : Nat) (v : α) (h : b ≠ a) :
    Memory.read (Memory.write m a v) b = Memory.read m b := by
  induction m with
  | nil => simp [Memory.write, Memory.read, h]
  | cons c rest ih =>
    obtain ⟨d, w⟩ := c
    simp only [Memory.write]
    split
    · simp [Memory.read, h]
    · split
      · rename_i _ had
        subst had
        simp [Memory.read, h]
      · simp only [Memory.read, ih]

/-- One lemma for reading after a write. -/
theorem Memory.read_write {α : Type} (m : Memory α) (a b : Nat) (v : α) :
    Memory.read (Memory.write m a v) b = if b = a then some v else Memory.read m b := by
  split
  · rename_i h; rw [h, Memory.read_write_same]
  · rename_i h; exact Memory.read_write_other m a b v h

theorem Memory.all_write {α : Type} (m : Memory α) (a n : Nat) (v : α) (ha : n < a)
    (h : m.all (fun c => decide (n < c.1)) = true) :
    (Memory.write m a v).all (fun c => decide (n < c.1)) = true := by
  induction m with
  | nil => simpa [Memory.write] using ha
  | cons c rest ih =>
    obtain ⟨b, w⟩ := c
    simp only [List.all_cons, Bool.and_eq_true, decide_eq_true_eq] at h
    simp only [Memory.write]
    split
    · simp only [List.all_cons, Bool.and_eq_true, decide_eq_true_eq]
      exact ⟨ha, h.1, h.2⟩
    · split
      · simp only [List.all_cons, Bool.and_eq_true, decide_eq_true_eq]
        exact ⟨ha, h.2⟩
      · simp only [List.all_cons, Bool.and_eq_true, decide_eq_true_eq]
        exact ⟨h.1, ih h.2⟩

theorem Memory.all_lt_trans {α : Type} (m : Memory α) (a b : Nat) (hab : a < b)
    (h : m.all (fun c => decide (b < c.1)) = true) : m.all (fun c => decide (a < c.1)) = true := by
  simp only [List.all_eq_true, decide_eq_true_eq] at h ⊢
  exact fun c hc => Nat.lt_trans hab (h c hc)

/-- Every write keeps the canonical form. -/
theorem Memory.wf_write {α : Type} (m : Memory α) (a : Nat) (v : α) (h : Memory.wf m = true) :
    Memory.wf (Memory.write m a v) = true := by
  induction m with
  | nil => simp [Memory.write, Memory.wf]
  | cons c rest ih =>
    obtain ⟨b, w⟩ := c
    simp only [Memory.wf, Bool.and_eq_true] at h
    simp only [Memory.write]
    split
    · rename_i hab
      simp only [Memory.wf, List.all_cons, Bool.and_eq_true, decide_eq_true_eq]
      exact ⟨⟨hab, Memory.all_lt_trans rest a b hab h.1⟩, h.1, h.2⟩
    · split
      · rename_i _ hab
        subst hab
        simp only [Memory.wf, Bool.and_eq_true]
        exact h
      · rename_i h1 h2
        simp only [Memory.wf, Bool.and_eq_true]
        exact ⟨Memory.all_write rest a b v (by omega) h.1, ih h.2⟩

/-- What holds of every listed value holds of a value read. -/
theorem Memory.all_read {α : Type} {m : Memory α} {p : α → Bool} {a : Nat} {v : α}
    (h : m.all (fun c => p c.2) = true) (hr : Memory.read m a = some v) : p v = true := by
  induction m with
  | nil => cases hr
  | cons c rest ih =>
    simp only [List.all_cons, Bool.and_eq_true] at h
    simp only [Memory.read] at hr
    split at hr
    · cases hr; exact h.1
    · exact ih h.2 hr

/-- A write keeps what holds of every listed value, if it holds of the value written. -/
theorem Memory.all_write_value {α : Type} {m : Memory α} {p : α → Bool} {v : α} (a : Nat)
    (h : m.all (fun c => p c.2) = true) (hv : p v = true) : (Memory.write m a v).all (fun c => p c.2) = true := by
  induction m with
  | nil => simpa [Memory.write] using hv
  | cons c rest ih =>
    simp only [List.all_cons, Bool.and_eq_true] at h
    simp only [Memory.write]
    split
    · simp only [List.all_cons, Bool.and_eq_true]
      exact ⟨hv, h.1, h.2⟩
    · split
      · simp only [List.all_cons, Bool.and_eq_true]
        exact ⟨hv, h.2⟩
      · simp only [List.all_cons, Bool.and_eq_true]
        exact ⟨h.1, ih h.2⟩

theorem Memory.wf_nil {α : Type} : Memory.wf ([] : Memory α) = true := rfl

/-- Reset memory is in canonical form. -/
theorem reset_memory_wf : Memory.wf State.reset.ring = true ∧ Memory.wf State.reset.out = true := ⟨rfl, rfl⟩

/-! ### Signed numbers of a parametric width -/

theorem ampW_pos (p : Params) : 0 < p.ampW := Nat.lt_of_lt_of_le (by decide) p.ampW_ge

theorem outW_pos (p : Params) : 0 < p.outW := Nat.lt_of_lt_of_le (ampW_pos p) p.outW_ge

theorem fits_iff (w : Nat) (x : Int) : fits w x = true ↔ -(2 ^ (w - 1)) ≤ x ∧ x < 2 ^ (w - 1) := by
  simp [fits]

/-- `narrow` is the value of the bit pattern of `w` bits. -/
theorem narrow_eq (w : Nat) (x : Int) : narrow w x = (BitVec.ofInt w x).toInt := by
  rw [BitVec.toInt_ofInt]; rfl

/-- What two's complement of `w` bits holds, an `i<w>` holds. -/
theorem fits_toInt {w : Nat} (_h : 0 < w) (b : BitVec w) : fits w b.toInt = true :=
  (fits_iff w _).2 ⟨BitVec.le_toInt b, BitVec.toInt_lt⟩

/-- Narrowing gives an `i<w>` (44 R237). -/
theorem fits_narrow {w : Nat} (h : 0 < w) (x : Int) : fits w (narrow w x) = true := by
  rw [narrow_eq]; exact fits_toInt h _

/-- A wider type holds what a narrower one holds. -/
theorem fits_mono {v w : Nat} (h : v ≤ w) {x : Int} (hx : fits v x = true) : fits w x = true := by
  rw [fits_iff] at hx ⊢
  have hp : (2 : Int) ^ (v - 1) ≤ 2 ^ (w - 1) := by
    exact_mod_cast Nat.pow_le_pow_right (by decide) (show v - 1 ≤ w - 1 by omega)
  omega

/-- Narrowing leaves an `i<w>` alone. -/
theorem narrow_of_fits {w : Nat} (_h : 0 < w) {x : Int} (hx : fits w x = true) : narrow w x = x := by
  rw [fits_iff] at hx
  obtain ⟨n, rfl⟩ : ∃ n, w = n + 1 := ⟨w - 1, by omega⟩
  simp only [Nat.add_sub_cancel] at hx
  unfold narrow
  rw [Int.bmod_eq_of_le_mul_two] <;> push_cast <;> rw [pow_succ] <;> omega

/-! ### Cursors (00_scope.md R15, 40 R135) -/

theorem ringN_pos (p : Params) : 0 < p.ringN := Nat.lt_of_lt_of_le (by decide) p.ringN_ge

theorem cycInc_lt (m i : Nat) (h : 0 < m) : cycInc m i < m := Nat.mod_lt _ h

theorem cycDec_lt (m i : Nat) (h : 0 < m) : cycDec m i < m := Nat.mod_lt _ h

theorem cycDist_lt (m a b : Nat) (h : 0 < m) : cycDist m a b < m := Nat.mod_lt _ h

theorem next_lt (s : State) (c : Nat) : s.next c < s.cfg.ringN := cycInc_lt _ _ (ringN_pos s.cfg)

theorem prev_lt (s : State) (c : Nat) : s.prev c < s.cfg.ringN := cycDec_lt _ _ (ringN_pos s.cfg)

theorem dist_lt (s : State) (a b : Nat) : s.dist a b < s.cfg.ringN := cycDist_lt _ _ _ (ringN_pos s.cfg)

/-- `dist` in two cases, for cursors in range. -/
theorem cycDist_cases (m a b : Nat) (ha : a < m) (hb : b < m) :
    cycDist m a b = if a ≤ b then b - a else b + m - a := by
  unfold cycDist
  split
  · rename_i h
    have : b + m - a = (b - a) + m := by omega
    rw [this, Nat.add_mod_right, Nat.mod_eq_of_lt (by omega)]
  · exact Nat.mod_eq_of_lt (by omega)

/-- `(+) 1` in two cases. -/
theorem cycInc_cases (m i : Nat) (h : i < m) : cycInc m i = if i + 1 = m then 0 else i + 1 := by
  unfold cycInc
  split
  · rename_i e; rw [e, Nat.mod_self]
  · exact Nat.mod_eq_of_lt (by omega)

/-- `(-) 1` in two cases. -/
theorem cycDec_cases (m i : Nat) (h : i < m) : cycDec m i = if i = 0 then m - 1 else i - 1 := by
  unfold cycDec
  split
  · rename_i e; subst e; exact (Nat.mod_eq_of_lt (by omega)).trans (by omega)
  · have : i + m - 1 = (i - 1) + m := by omega
    rw [this, Nat.add_mod_right, Nat.mod_eq_of_lt (by omega)]

/-- A cursor in range fits `u<CUR_W>` (00_scope.md R10, 10_state.md R54). -/
theorem lt_curW (p : Params) (c : Nat) (h : c < p.ringN) : c < 2 ^ p.curW :=
  Nat.lt_of_lt_of_le h (Nat.le_pow_clog (by decide) p.ringN)

/-! ### Faults and transactions -/

/-- What `raise` does in a running block (60_exceptions.md R304). -/
theorem raise_running (x : FaultCode) (s : State) (h : s.fault = .none) : raise x s = { s with fault := x } := by
  simp [raise, h]

/-- A second fault changes nothing (60_exceptions.md R304, R313). -/
theorem raise_halted (x : FaultCode) (s : State) (h : s.fault ≠ .none) : raise x s = s := by
  simp [raise, h]

theorem halted_iff (s : State) : s.halted = true ↔ s.fault ≠ .none := by simp [State.halted]

theorem not_halted_iff (s : State) : s.halted = false ↔ s.fault = .none := by simp [State.halted]

/-- What a transaction does in a running block. -/
theorem transact_running (f : State → State) (s : State) (h : s.fault = .none) : transact f s = .next (f s) := by
  simp [transact, State.halted, h]

/-- A halted block refuses (60_exceptions.md R306). -/
theorem transact_halted (f : State → State) (s : State) (h : s.fault ≠ .none) : transact f s = .next s := by
  simp [transact, State.halted, h]

theorem forKind_fits (k : ChKind) (f : State → State) (s : State) (h : s.cfg.kind = k) : forKind k f s = f s := by
  simp [forKind, h]

theorem forKind_other (k : ChKind) (f : State → State) (s : State) (h : s.cfg.kind ≠ k) :
    forKind k f s = raise .illegalCmd s := by
  simp [forKind, h]

/-- The trigger value is 0 (40 R131; log 3). -/
@[simp] theorem modcntTrig_eq (p : Params) : p.modcntTrig = 0 := Nat.lt_one_iff.1 p.modcntTrig_lt

/-- `MODCNT.increment` on a non-zero period (40 R131). -/
theorem modcntIncrement_ok (period trig count : Nat) (h : period ≠ 0) :
    modcntIncrement period trig count = .ok ((count + 1) % period, decide ((count + 1) % period = trig)) := by
  simp [modcntIncrement, h]

/-! ### Ring slots and frames -/

theorem slot_setSlot_same (s : State) (i : Nat) (r : Record) : (setSlot i r s).slot i = r := by
  simp [State.slot, Memory.read_write_same]

theorem slot_setSlot_other (s : State) (i j : Nat) (r : Record) (h : j ≠ i) : (setSlot i r s).slot j = s.slot j := by
  simp [State.slot, State.deadSlot, Memory.read_write_other _ _ _ _ h]

theorem frame_setFrame_same (s : State) (k : Nat) (v : Int) : (setFrame k v s).frame k = v := by
  simp [State.frame, Memory.read_write_same]

theorem frame_setFrame_other (s : State) (j k : Nat) (v : Int) (h : j ≠ k) : (setFrame k v s).frame j = s.frame j := by
  simp [State.frame, Memory.read_write_other _ _ _ _ h]

/-- A slot depends on the ring, the reset count and the amplitude's width only. -/
theorem slot_congr (s t : State) (i : Nat) (h : s.ring = t.ring) (hr : s.env.resets = t.env.resets)
    (hc : s.cfg.ampW = t.cfg.ampW) : s.slot i = t.slot i := by
  simp [State.slot, State.deadSlot, h, hr, hc]

/-- A slot holds an amplitude of `AMP_W` bits, where the listed ones do (10_state.md R53). -/
theorem slot_amp_fits (s : State) (i : Nat) (h : s.ring.all (fun c => fits s.cfg.ampW c.2.amp) = true) :
    fits s.cfg.ampW (s.slot i).amp = true := by
  unfold State.slot
  split
  · rename_i r hr
    exact Memory.all_read (p := fun c => fits s.cfg.ampW c.amp) h hr
  · exact fits_narrow (ampW_pos s.cfg) _

/-! ### Ports and turns -/

theorem portWords_setPort_same (s : State) (a : Agent) (ws : List Word) : (setPort a ws s).portWords a = ws := by
  cases a <;> rfl

theorem portWords_setPort_other (s : State) (a b : Agent) (ws : List Word) (h : b ≠ a) :
    (setPort a ws s).portWords b = s.portWords b := by
  cases a <;> cases b <;> first | rfl | exact absurd rfl h

@[simp] theorem setPort_resets (s : State) (a : Agent) (ws : List Word) : (setPort a ws s).env.resets = s.env.resets := by
  cases a <;> rfl

@[simp] theorem takeTurn_resets (s : State) : (takeTurn s).env.resets = s.env.resets := by
  unfold takeTurn; split <;> rfl

@[simp] theorem takeTurn_portWords (s : State) (a : Agent) : (takeTurn s).portWords a = s.portWords a := by
  unfold takeTurn; split <;> cases a <;> rfl

/-- A scheduled turn goes to the agent the schedule names. -/
theorem nextAgent_scheduled (s : State) (a : Agent) (rest : List Agent) (h : s.env.sched = a :: rest) :
    s.nextAgent = a ∧ takeTurn s = { s with env := { s.env with sched := rest } } := by
  simp [State.nextAgent, takeTurn, h]

end Sys2Proof.Machine
end

