-- ==== Sys2Proof/Laws/PerInstr.lean ====
section
/-! SUPPORT. Statements made per instruction, about the instruction as syntax: the length of its words, the port that owns it. -/

namespace Sys2Proof.Laws.CommandLength

/-- A command is its head and as many extension words as its opcode says (30_encoding.md R102). -/
def Statement (i : Instr) : Prop := ∃ h xs, encode i = h :: xs ∧ xs.length = extWords (opOf h)

theorem nop : Statement .nop := ⟨_, _, rfl, rfl⟩
theorem wrSwp (d : Byte) : Statement (.wrSwp d) := ⟨_, _, rfl, by simp [extWords]⟩
theorem wrWon (d : Byte) : Statement (.wrWon d) := ⟨_, _, rfl, by simp [extWords]⟩
theorem wrLen (d : Byte) : Statement (.wrLen d) := ⟨_, _, rfl, by simp [extWords]⟩
theorem wrWlen (d : Byte) : Statement (.wrWlen d) := ⟨_, _, rfl, by simp [extWords]⟩
theorem wrEnv (d : Byte) : Statement (.wrEnv d) := ⟨_, _, rfl, by simp [extWords]⟩
theorem wrWvol (d : Byte) : Statement (.wrWvol d) := ⟨_, _, rfl, by simp [extWords]⟩
theorem wrFlo (d : Byte) : Statement (.wrFlo d) := ⟨_, _, rfl, by simp [extWords]⟩
theorem wrFhi (d : Byte) : Statement (.wrFhi d) := ⟨_, _, rfl, by simp [extWords]⟩
theorem rd (sel : BitVec 3) : Statement (.rd sel) := ⟨_, _, rfl, by simp [extWords]⟩
theorem envclk : Statement .envclk := ⟨_, _, rfl, rfl⟩
theorem cyc : Statement .cyc := ⟨_, _, rfl, rfl⟩
theorem emu (n : BitVec 12) : Statement (.emu n) := ⟨_, _, rfl, by simp [extWords]⟩
theorem fdivn (n : BitVec 12) : Statement (.fdivn n) := ⟨_, _, rfl, by simp [extWords]⟩
theorem ins (amp : Byte) (c : Cycle) : Statement (.ins amp c) := ⟨_, _, rfl, by simp [extWords, words64]⟩
theorem upd (ref : Cycle) : Statement (.upd ref) := ⟨_, _, rfl, by simp [extWords, words64]⟩
theorem rnd (frames : BitVec 12) (fs : BitVec 32) (ref : Cycle) : Statement (.rnd frames fs ref) :=
  ⟨_, _, rfl, by simp [extWords, words32, words64]⟩
theorem wrw (idx : BitVec 4) (d : Byte) : Statement (.wrw idx d) := ⟨_, _, rfl, by simp [extWords]⟩
theorem rdw (idx : BitVec 4) : Statement (.rdw idx) := ⟨_, _, rfl, by simp [extWords]⟩
theorem oclr (frames : BitVec 12) : Statement (.oclr frames) := ⟨_, _, rfl, by simp [extWords]⟩
theorem rst : Statement .rst := ⟨_, _, rfl, rfl⟩

end Sys2Proof.Laws.CommandLength

namespace Sys2Proof.Laws.PortOwnership

/-- `NOP` belongs to both command ports, any other transaction to exactly one of the three (60_exceptions.md R320). -/
def Statement (i : Instr) : Prop :=
  i = .nop ∧ Agent.w.owns i = true ∧ Agent.r.owns i = true ∧ Agent.host.owns i = false ∨ i ≠ .nop ∧ ∃ a : Agent, ∀ b : Agent, b.owns i = decide (b = a)

theorem nop : Statement .nop := .inl ⟨rfl, rfl, rfl, rfl⟩
theorem wrSwp (d : Byte) : Statement (.wrSwp d) := .inr ⟨by simp, .w, by intro b; cases b <;> rfl⟩
theorem wrWon (d : Byte) : Statement (.wrWon d) := .inr ⟨by simp, .w, by intro b; cases b <;> rfl⟩
theorem wrLen (d : Byte) : Statement (.wrLen d) := .inr ⟨by simp, .w, by intro b; cases b <;> rfl⟩
theorem wrWlen (d : Byte) : Statement (.wrWlen d) := .inr ⟨by simp, .w, by intro b; cases b <;> rfl⟩
theorem wrEnv (d : Byte) : Statement (.wrEnv d) := .inr ⟨by simp, .w, by intro b; cases b <;> rfl⟩
theorem wrWvol (d : Byte) : Statement (.wrWvol d) := .inr ⟨by simp, .w, by intro b; cases b <;> rfl⟩
theorem wrFlo (d : Byte) : Statement (.wrFlo d) := .inr ⟨by simp, .w, by intro b; cases b <;> rfl⟩
theorem wrFhi (d : Byte) : Statement (.wrFhi d) := .inr ⟨by simp, .w, by intro b; cases b <;> rfl⟩
theorem rd (sel : BitVec 3) : Statement (.rd sel) := .inr ⟨by simp, .w, by intro b; cases b <;> rfl⟩
theorem envclk : Statement .envclk := .inr ⟨by simp, .w, by intro b; cases b <;> rfl⟩
theorem cyc : Statement .cyc := .inr ⟨by simp, .w, by intro b; cases b <;> rfl⟩
theorem emu (n : BitVec 12) : Statement (.emu n) := .inr ⟨by simp, .w, by intro b; cases b <;> rfl⟩
theorem fdivn (n : BitVec 12) : Statement (.fdivn n) := .inr ⟨by simp, .w, by intro b; cases b <;> rfl⟩
theorem ins (amp : Byte) (c : Cycle) : Statement (.ins amp c) := .inr ⟨by simp, .w, by intro b; cases b <;> rfl⟩
theorem upd (ref : Cycle) : Statement (.upd ref) := .inr ⟨by simp, .r, by intro b; cases b <;> rfl⟩
theorem rnd (frames : BitVec 12) (fs : BitVec 32) (ref : Cycle) : Statement (.rnd frames fs ref) :=
  .inr ⟨by simp, .r, by intro b; cases b <;> rfl⟩
theorem wrw (idx : BitVec 4) (d : Byte) : Statement (.wrw idx d) := .inr ⟨by simp, .w, by intro b; cases b <;> rfl⟩
theorem rdw (idx : BitVec 4) : Statement (.rdw idx) := .inr ⟨by simp, .w, by intro b; cases b <;> rfl⟩
theorem oclr (frames : BitVec 12) : Statement (.oclr frames) := .inr ⟨by simp, .r, by intro b; cases b <;> rfl⟩
theorem rst : Statement .rst := .inr ⟨by simp, .host, by intro b; cases b <;> rfl⟩

end Sys2Proof.Laws.PortOwnership
end

