-- ==== Sys2Proof/Laws/Units.lean ====
section
/-! SUPPORT. Laws of the units: one lemma a shared operation of the divider, the envelope, the source, the ring and the renderer. -/

namespace Sys2Proof.Machine

/-! ### FDIV -/

/-- The three outcomes of a tick (41 R154). -/
theorem tick_cases (period timer : BitVec 14) :
    (period = 0 ∧ tick period timer = ⟨timer, false⟩) ∨
    (period ≠ 0 ∧ timer.toNat ≤ 1 ∧ tick period timer = ⟨period, true⟩) ∨
    (period ≠ 0 ∧ 2 ≤ timer.toNat ∧ tick period timer = ⟨timer - 1, false⟩) := by
  unfold tick
  by_cases h : period = 0
  · exact .inl ⟨h, by simp [h]⟩
  · by_cases h1 : timer.toNat ≤ 1
    · exact .inr (.inl ⟨h, h1, by rw [if_neg h, if_pos h1]⟩)
    · exact .inr (.inr ⟨h, by omega, by rw [if_neg h, if_neg h1]⟩)

theorem code_toNat (s : State) : s.code.toNat = s.reg[4].toNat % 8 * 256 + s.reg[3].toNat := by
  have := s.reg[3].isLt
  simp only [State.code, BitVec.toNat_ofNat]
  omega

theorem periodOf_toNat (k : ChKind) (code : BitVec 11) : (periodOf k code).toNat = (2048 - code.toNat) * fdivMult k := by
  have := code.isLt
  cases k <;> simp only [periodOf, fdivMult, BitVec.toNat_ofNat] <;> omega

/-- A cycle in one of three ways: overflow, no fire, underflow (41 R156). -/
theorem cycle_cases (s : State) :
    (s.cycOverflows 1 = true ∧ cycle s = ⟨raise .cycOvf s, false⟩) ∨
    (s.cycOverflows 1 = false ∧ (tick s.period s.timer).fired = false ∧
      cycle s = ⟨{ advanceCyc 1 s with timer := (tick s.period s.timer).timer }, false⟩) ∨
    (s.cycOverflows 1 = false ∧ (tick s.period s.timer).fired = true ∧
      cycle s = ⟨underflow { advanceCyc 1 s with timer := (tick s.period s.timer).timer }, true⟩) := by
  unfold cycle
  cases h : s.cycOverflows 1
  · cases h1 : (tick s.period s.timer).fired
    · exact .inr (.inl ⟨rfl, rfl, by simp [h1]⟩)
    · exact .inr (.inr ⟨rfl, rfl, by simp [h1]⟩)
  · exact .inl ⟨rfl, by simp⟩

/-! ### SRC -/

/-- Every amplitude of the source lies in -15 to 15 (45 R263, R270, R272). -/
theorem sourceAmp_range (s : State) : -15 ≤ s.sourceAmp ∧ s.sourceAmp ≤ 15 := by
  unfold State.sourceAmp
  split
  · have := s.volume.isLt
    unfold squareAmp
    split <;> omega
  · have hn := (s.nibble s.wstep).isLt
    have hv := s.wvol.isLt
    unfold waveAmp
    split
    · omega
    · have hk : s.wvol.toNat - 1 = 0 ∨ s.wvol.toNat - 1 = 1 ∨ s.wvol.toNat - 1 = 2 := by omega
      rcases hk with hk | hk | hk <;> rw [hk] <;> norm_num <;> omega

/-- So it fits `i<AMP_W>` (00_scope.md R11). -/
theorem sourceAmp_fits (s : State) : fits s.cfg.ampW s.sourceAmp = true := by
  refine fits_mono s.cfg.ampW_ge ((fits_iff 5 _).2 ?_)
  have := sourceAmp_range s
  norm_num
  omega

/-- The byte of a small amplitude stands for it, in every `AMP_W` (30_encoding.md R104). -/
theorem insAmp_small (s : State) (x : Int) (h : -15 ≤ x ∧ x ≤ 15) : s.insAmp (BitVec.ofInt 8 x) = x := by
  have hx : (BitVec.ofInt 8 x).toInt = x := by
    rw [BitVec.toInt_ofInt]
    exact narrow_of_fits (w := 8) (by decide) ((fits_iff 8 x).2 (by norm_num; omega))
  have hf : fits s.cfg.ampW x = true :=
    fits_mono s.cfg.ampW_ge ((fits_iff 5 x).2 (by norm_num; omega))
  simp only [State.insAmp, hx, hf, if_true]

/-- With `AMP_W >= 8` the operand of `INS` is the byte read as `i8` (30_encoding.md R104). -/
theorem insAmp_wide (s : State) (b : Byte) (h : 8 ≤ s.cfg.ampW) : s.insAmp b = b.toInt := by
  simp only [State.insAmp, fits_mono h (fits_toInt (by decide) b), if_true]

/-- The operand of `INS` is an `i<AMP_W>`. -/
theorem insAmp_fits (s : State) (b : Byte) : fits s.cfg.ampW (s.insAmp b) = true := by
  unfold State.insAmp
  split
  · assumption
  · exact fits_toInt (ampW_pos s.cfg) _

/-! ### RING -/

/-- The five outcomes of an insertion (43 R204), in the order of its tests. -/
theorem insertRecord_cases (amp : Int) (c : Cycle) (s : State) :
    (c.toInt < 0 ∧ insertRecord amp c s = raise .badArg s) ∨
    (0 ≤ c.toInt ∧ s.coalesces amp = true ∧ insertRecord amp c s = s) ∨
    (0 ≤ c.toInt ∧ s.coalesces amp = false ∧ s.outOfOrder c = true ∧ insertRecord amp c s = raise .order s) ∨
    (0 ≤ c.toInt ∧ s.coalesces amp = false ∧ s.outOfOrder c = false ∧ s.ringFull = true ∧
      insertRecord amp c s = raise .ringFull s) ∨
    (0 ≤ c.toInt ∧ s.coalesces amp = false ∧ s.outOfOrder c = false ∧ s.ringFull = false ∧
      insertRecord amp c s = markWritten (appendRecord amp c (closeLast c s))) := by
  unfold insertRecord
  by_cases h : c.toInt < 0
  · exact .inl ⟨h, by simp [h]⟩
  · have h' : 0 ≤ c.toInt := by omega
    cases h1 : s.coalesces amp
    · cases h2 : s.outOfOrder c
      · cases h3 : s.ringFull
        · exact .inr (.inr (.inr (.inr ⟨h', rfl, rfl, rfl, by simp [h]⟩)))
        · exact .inr (.inr (.inr (.inl ⟨h', rfl, rfl, rfl, by simp [h]⟩)))
      · exact .inr (.inr (.inl ⟨h', rfl, rfl, by simp [h]⟩))
    · exact .inr (.inl ⟨h', rfl, by simp [h]⟩)

/-- The retire loop moves `oldest` and nothing else (43 R212). -/
theorem retire_only_oldest (ref : Cycle) (fuel : Nat) (s : State) :
    retire ref fuel s = { s with oldest := (retire ref fuel s).oldest } := by
  induction fuel generalizing s with
  | zero => rfl
  | succ n ih =>
    unfold retire
    split
    · rfl
    · split
      · rw [ih]
      · rfl

/-- `UPD`'s body moves `oldest`, takes the snapshot and changes nothing else (43 R212, R214). -/
theorem updateQueue_frame (ref : Cycle) (s : State) :
    updateQueue ref s = { s with oldest := (updateQueue ref s).oldest, pwe := s.newest } := by
  simp only [updateQueue]
  rw [retire_only_oldest]

/-! ### The lock is invisible to what runs under it (20_memory.md R85) -/

theorem raise_withLock (x : FaultCode) (s : State) (a : Lock) : raise x { s with lock := a } = { raise x s with lock := a } := by
  simp only [raise]
  split <;> rfl

theorem insertRecord_withLock (amp : Int) (c : Cycle) (s : State) (a : Lock) :
    insertRecord amp c { s with lock := a } = { insertRecord amp c s with lock := a } := by
  have h1 : State.coalesces { s with lock := a } amp = s.coalesces amp := rfl
  have h2 : State.outOfOrder { s with lock := a } c = s.outOfOrder c := rfl
  have h3 : State.ringFull { s with lock := a } = s.ringFull := rfl
  simp only [insertRecord]
  rw [h1, h2, h3]
  split_ifs
  · exact raise_withLock _ _ _
  · rfl
  · exact raise_withLock _ _ _
  · exact raise_withLock _ _ _
  · simp only [closeLast]
    split <;> rfl

theorem retire_withLock (ref : Cycle) (fuel : Nat) (s : State) (a : Lock) :
    retire ref fuel { s with lock := a } = { retire ref fuel s with lock := a } := by
  induction fuel generalizing s with
  | zero => rfl
  | succ n ih =>
    have h1 : State.consumed { s with lock := a } ref = s.consumed ref := rfl
    simp only [retire]
    rw [h1]
    split
    · rfl
    · split
      · exact ih { s with oldest := s.next s.oldest }
      · rfl

theorem updateQueue_withLock (ref : Cycle) (s : State) (a : Lock) :
    updateQueue ref { s with lock := a } = { updateQueue ref s with lock := a } := by
  have h : State.dist { s with lock := a } s.oldest s.newest = s.dist s.oldest s.newest := rfl
  simp only [updateQueue]
  rw [h, retire_withLock]

theorem beginRender_withLock (frames : Nat) (fs : BitVec 32) (ref : Cycle) (s : State) (a : Lock) :
    beginRender frames fs ref { s with lock := a } = { beginRender frames fs ref s with lock := a } := by
  have h : State.badRender { s with lock := a } frames fs ref = s.badRender frames fs ref := rfl
  simp only [beginRender]
  rw [h]
  split
  · exact raise_withLock _ _ _
  · rw [updateQueue_withLock]

/-- What `INS` does, with the lock free: its body. -/
theorem insertEvent_eq (amp : Int) (c : Cycle) (s : State) :
    insertEvent amp c s = { insertRecord amp c s with lock := .free } := by
  simp only [insertEvent, locked]
  rw [insertRecord_withLock]

theorem execUpd_eq (ref : Cycle) (s : State) (h : s.fault = .none) :
    execUpd ref s = .next { updateQueue ref s with lock := .free } := by
  have h' : s.halted = false := by simp [State.halted, h]
  simp only [execUpd, transact, locked, h', Bool.false_eq_true, if_false]
  rw [updateQueue_withLock]

theorem execIns_eq (amp : Byte) (c : Cycle) (s : State) (h : s.fault = .none) :
    execIns amp c s = .next { insertRecord (s.insAmp amp) c s with lock := .free } := by
  have h' : s.halted = false := by simp [State.halted, h]
  simp only [execIns, transact, h', Bool.false_eq_true, if_false]
  rw [insertEvent_eq]

theorem execRnd_eq (frames : BitVec 12) (fs : BitVec 32) (ref : Cycle) (s : State) (h : s.fault = .none) :
    execRnd frames fs ref s = .next { beginRender frames.toNat fs ref s with lock := .free } := by
  have h' : s.halted = false := by simp [State.halted, h]
  simp only [execRnd, transact, locked, h', Bool.false_eq_true, if_false]
  rw [beginRender_withLock]

/-! ### RND -/

/-- One frame step writes its frame, the cursor and the frame index (44 R236). -/
theorem renderFrame_frame (r : RenderRun) (s : State) :
    renderFrame r s = { s with
      out := (renderFrame r s).out, rc := (renderFrame r s).rc, render := some { r with k := r.k + 1 } } := rfl

/-- `OCLR` writes output frames only (44 R232). -/
theorem clearFrames_only_out (n : Nat) (s : State) : clearFrames n s = { s with out := (clearFrames n s).out } := by
  induction n with
  | zero => rfl
  | succ n ih =>
    simp only [clearFrames, setFrame]
    rw [ih]

/-! ### Turns -/

/-- What a turn of agent W runs (20_memory.md R88, 60_exceptions.md R306). -/
theorem turnW_cases (s : State) :
    (s.fault ≠ .none ∧ s.emu.isSome = true ∧ turnW s = .next { s with emu := none }) ∨
    (s.fault ≠ .none ∧ s.emu = none ∧ turnW s = .next (dropCommand .w s)) ∨
    (∃ e, s.fault = .none ∧ s.emu = some e ∧ turnW s = .next (emuCycle e s)) ∨
    (s.fault = .none ∧ s.emu = none ∧ turnW s = startCommand .w s) := by
  by_cases h : s.fault = .none <;> cases he : s.emu <;> simp [turnW, State.halted, h, he]

/-- What a turn of agent R runs. -/
theorem turnR_cases (s : State) :
    (s.fault ≠ .none ∧ s.render.isSome = true ∧ turnR s = .next { s with render := none }) ∨
    (s.fault ≠ .none ∧ s.render = none ∧ turnR s = .next (dropCommand .r s)) ∨
    (∃ r, s.fault = .none ∧ s.render = some r ∧ turnR s = .next (renderStep r s)) ∨
    (s.fault = .none ∧ s.render = none ∧ turnR s = startCommand .r s) := by
  by_cases h : s.fault = .none <;> cases he : s.render <;> simp [turnR, State.halted, h, he]

/-- What starting a command runs. -/
theorem startCommand_cases (a : Agent) (s : State) :
    (s.portWords a = [] ∧ startCommand a s = .next s) ∨
    (∃ i rest, decodeOn s.cfg.kind a (s.portWords a) = .ok (i, rest) ∧ startCommand a s = exec i (setPort a rest s)) ∨
    (∃ e, s.portWords a ≠ [] ∧ decodeOn s.cfg.kind a (s.portWords a) = .error e ∧
      startCommand a s = .next (raise .illegalCmd (dropCommand a s))) := by
  cases hw : s.portWords a with
  | nil => exact .inl ⟨rfl, by simp [startCommand, hw]⟩
  | cons h ws =>
    cases hd : decodeOn s.cfg.kind a (h :: ws) with
    | ok v => obtain ⟨i, rest⟩ := v; exact .inr (.inl ⟨i, rest, rfl, by simp [startCommand, hw, hd]⟩)
    | error e => exact .inr (.inr ⟨e, by simp, rfl, by simp [startCommand, hw, hd]⟩)

end Sys2Proof.Machine
end

