-- ==== Sys2Proof/Laws/Step.lean ====
section
/-! SUPPORT. Everything a step can do, said once, and what using up a turn leaves alone. -/

namespace Sys2Proof.Machine

/-! ### Using up a turn -/

/-- Only the schedule and the counter of free choices change. -/
theorem takeTurn_frame (s : State) : takeTurn s = { s with env := (takeTurn s).env } := by
  simp only [takeTurn]
  split <;> rfl

@[simp] theorem takeTurn_halted (s : State) : (takeTurn s).halted = s.halted := by rw [takeTurn_frame]; rfl
@[simp] theorem takeTurn_underWay (s : State) : (takeTurn s).underWay = s.underWay := by rw [takeTurn_frame]; rfl

/-- A port's words are the model's own field: setting them changes nothing of the block. -/
theorem setPort_frame (a : Agent) (ws : List Word) (s : State) :
    setPort a ws s = { s with env := (setPort a ws s).env } := by
  cases a <;> rfl

theorem dropCommand_frame (a : Agent) (s : State) : dropCommand a s = { s with env := (dropCommand a s).env } := by
  cases a <;> rfl

/-! ### Decoding -/

/-- Only the head `0xF000` is `RST` (30_encoding.md R105, R120). -/
theorem decode_rst (k : ChKind) (h : Word) (ws rest : List Word) (hd : decode k (h :: ws) = .ok (.rst, rest)) :
    h = 0xF000 ∧ rest = ws := by
  have hop := opOf_toNat h
  have hn := n12Of_toNat h
  simp only [decode] at hd
  split at hd
  case h_14 hop15 =>
    simp only [decodeZ] at hd
    split at hd
    · rename_i hz
      cases hd
      refine ⟨BitVec.eq_of_toNat_eq ?_, rfl⟩
      have : (n12Of h).toNat = 0 := by rw [hz]; rfl
      have hF : (0xF000 : Word).toNat = 0xF000 := rfl
      rw [hF]
      omega
    · cases hd
  all_goals first
    | cases hd
    | (simp only [decodeZ, decodeWr, decodeRd, decodeIns, decodeUpd, decodeRnd, decodeWrw, decodeRdw] at hd
       cases k <;> repeat' (first | cases hd | split at hd))

/-- What a port accepts: the command decodes and the agent owns it (60_exceptions.md R320). -/
theorem decodeOn_ok {k : ChKind} {a : Agent} {ws rest : List Word} {i : Instr} (h : decodeOn k a ws = .ok (i, rest)) :
    decode k ws = .ok (i, rest) ∧ a.owns i = true := by
  simp only [decodeOn] at h
  split at h
  · rename_i j r hd
    split at h
    · rename_i ho
      cases h
      exact ⟨hd, ho⟩
    · cases h
  · cases h

/-- The host owns `RST` alone, and nobody else owns it. -/
theorem owns_rst_iff (a : Agent) (i : Instr) (h : a.owns i = true) : a = .host ↔ i = .rst := by
  cases a
  · refine ⟨fun h' => (by cases h'), ?_⟩
    rintro rfl
    cases h
  · refine ⟨fun h' => (by cases h'), ?_⟩
    rintro rfl
    cases h
  · refine ⟨fun _ => ?_, fun _ => rfl⟩
    cases i <;> first | rfl | cases h

/-- Every command but `RST` answers a next state in every state (00_scope.md R16). -/
theorem exec_next (i : Instr) (s : State) (h : i ≠ .rst) : ∃ t, exec i s = .next t := by
  cases i <;> first | exact absurd rfl h | exact ⟨_, rfl⟩

/-- In a running block nothing is under way exactly when both agents are idle (60_exceptions.md R322). -/
theorem idle_of_not_underWay (s : State) (hr : s.Running) (h : s.underWay = false) : s.Idle := by
  have hf : s.fault = .none := hr
  simpa [State.underWay, State.halted, hf, State.Idle] using h

/-! ### Everything a step can do (20_memory.md R88; 60_exceptions.md R304, R306) -/

/-- The nine ways a step can go, `s'` being the state with the turn used up: idle; halted, a command dropped or a
transaction cut off; the next cycle of an `EMU`; the next frame or the end of a render; a command of W or R, never
`RST`; an illegal command; a reset. -/
theorem step_cases {s t : State} (h : step s = .next t) :
    (t = takeTurn s) ∨
    (s.fault ≠ .none ∧ t = dropCommand s.nextAgent (takeTurn s)) ∨
    (s.nextAgent = .w ∧ s.fault ≠ .none ∧ t = { takeTurn s with emu := none }) ∨
    (s.nextAgent = .r ∧ s.fault ≠ .none ∧ t = { takeTurn s with render := none }) ∨
    (∃ e, s.nextAgent = .w ∧ s.fault = .none ∧ s.emu = some e ∧ t = emuCycle e (takeTurn s)) ∨
    (∃ r, s.nextAgent = .r ∧ s.fault = .none ∧ s.render = some r ∧ t = renderStep r (takeTurn s)) ∨
    (∃ i rest, s.fault = .none ∧ s.nextAgent ≠ .host ∧ s.PortFree s.nextAgent ∧ i ≠ .rst ∧
      s.nextAgent.owns i = true ∧ decodeOn s.cfg.kind s.nextAgent (s.portWords s.nextAgent) = .ok (i, rest) ∧
      exec i (setPort s.nextAgent rest (takeTurn s)) = .next t) ∨
    (s.fault = .none ∧ t = raise .illegalCmd (dropCommand s.nextAgent (takeTurn s))) ∨
    (s.nextAgent = .host ∧ s.startsCommand .rst ∧ t = resetBlock (dropCommand .host (takeTurn s))) := by
  have start : ∀ a, s.nextAgent = a → a ≠ .host → s.PortFree a → s.fault = .none →
      startCommand a (takeTurn s) = .next t →
      (t = takeTurn s) ∨
      (∃ i rest, s.fault = .none ∧ s.nextAgent ≠ .host ∧ s.PortFree s.nextAgent ∧ i ≠ .rst ∧
        s.nextAgent.owns i = true ∧ decodeOn s.cfg.kind s.nextAgent (s.portWords s.nextAgent) = .ok (i, rest) ∧
        exec i (setPort s.nextAgent rest (takeTurn s)) = .next t) ∨
      (s.fault = .none ∧ t = raise .illegalCmd (dropCommand s.nextAgent (takeTurn s))) := by
    intro a ha hne hfree hf hs
    subst ha
    rcases startCommand_cases s.nextAgent (takeTurn s) with ⟨_, h1⟩ | ⟨i, rest, hd, h1⟩ | ⟨e, _, _, h1⟩
    · rw [h1] at hs; cases hs; exact .inl rfl
    · rw [h1] at hs
      simp only [takeTurn_cfg, takeTurn_portWords] at hd
      have ho := (decodeOn_ok hd).2
      exact .inr (.inl ⟨i, rest, hf, hne, hfree, fun hi => hne ((owns_rst_iff _ _ ho).2 hi), ho, hd, hs⟩)
    · rw [h1] at hs; cases hs; exact .inr (.inr ⟨hf, rfl⟩)
  unfold step at h
  cases ha : s.nextAgent
  · rw [ha] at h
    rcases turnW_cases (takeTurn s) with ⟨h1, _, h2⟩ | ⟨h1, _, h2⟩ | ⟨e, h1, h3, h2⟩ | ⟨h1, h3, h2⟩ <;>
      (simp only [agentTurn] at h; rw [h2] at h; rw [takeTurn_fault] at h1)
    · cases h; exact .inr (.inr (.inl ⟨rfl, h1, rfl⟩))
    · cases h; exact .inr (.inl ⟨h1, rfl⟩)
    · cases h; exact .inr (.inr (.inr (.inr (.inl ⟨e, rfl, h1, by simpa using h3, rfl⟩))))
    · rcases start .w ha (by simp) (by rw [takeTurn_emu] at h3; exact h3) h1 h with h4 | h4 | h4
      · exact .inl h4
      · rw [ha] at h4; exact .inr (.inr (.inr (.inr (.inr (.inr (.inl h4))))))
      · rw [ha] at h4; exact .inr (.inr (.inr (.inr (.inr (.inr (.inr (.inl h4)))))))
  · rw [ha] at h
    rcases turnR_cases (takeTurn s) with ⟨h1, _, h2⟩ | ⟨h1, _, h2⟩ | ⟨e, h1, h3, h2⟩ | ⟨h1, h3, h2⟩ <;>
      (simp only [agentTurn] at h; rw [h2] at h; rw [takeTurn_fault] at h1)
    · cases h; exact .inr (.inr (.inr (.inl ⟨rfl, h1, rfl⟩)))
    · cases h; exact .inr (.inl ⟨h1, rfl⟩)
    · cases h; exact .inr (.inr (.inr (.inr (.inr (.inl ⟨e, rfl, h1, by simpa using h3, rfl⟩)))))
    · rcases start .r ha (by simp) (by rw [takeTurn_render] at h3; exact h3) h1 h with h4 | h4 | h4
      · exact .inl h4
      · rw [ha] at h4; exact .inr (.inr (.inr (.inr (.inr (.inr (.inl h4))))))
      · rw [ha] at h4; exact .inr (.inr (.inr (.inr (.inr (.inr (.inr (.inl h4)))))))
  · rw [ha] at h
    simp only [agentTurn, turnHost] at h
    split at h
    · cases h; exact .inl rfl
    · rename_i x ws hp
      have hp' : s.portWords .host = x :: ws := by simpa using hp
      split at h
      · rename_i hx
        split at h
        · cases h; exact .inl rfl
        · rename_i hu
          have hu' : (dropCommand .host (takeTurn s)).underWay = false := by
            have h3 : (dropCommand .host (takeTurn s)).underWay = (takeTurn s).underWay := rfl
            rw [h3]
            simpa using hu
          simp only [execRst, hu'] at h
          cases h
          refine .inr (.inr (.inr (.inr (.inr (.inr (.inr (.inr ⟨rfl, ⟨⟨ws, ?_⟩, ?_, .inr rfl, fun _ hr => ?_⟩, rfl⟩)))))))
          · rw [ha, hp', hx]
            rfl
          · rw [ha]
            trivial
          · exact idle_of_not_underWay s hr (by simpa using hu)
      · rename_i hx
        split at h
        · rename_i hh
          cases h
          exact .inr (.inl ⟨by simpa [State.halted] using hh, rfl⟩)
        · rename_i hh
          have hf : s.fault = .none := by simpa [State.halted] using hh
          rcases startCommand_cases .host (takeTurn s) with ⟨h2, _⟩ | ⟨i, rest, hd, _⟩ | ⟨e, _, _, h1⟩
          · rw [hp] at h2; cases h2
          · obtain ⟨hd1, ho⟩ := decodeOn_ok hd
            have hi : i = .rst := (owns_rst_iff _ _ ho).1 rfl
            subst hi
            rw [hp] at hd1
            exact absurd (decode_rst _ _ _ _ hd1).1 hx
          · rw [h1] at h; cases h
            exact .inr (.inr (.inr (.inr (.inr (.inr (.inr (.inl ⟨hf, rfl⟩)))))))

end Sys2Proof.Machine
end

