-- ==== Sys2Proof/Tests/Slice0.lean ====
section
/-! SUPPORT. The model's own tests: well-formedness, decoding of words written out from the spec, one step each from the spec's worked examples, and a witness for the hypotheses of every statement that has some. -/

namespace Sys2Proof.Tests

open Sys2Proof.Machine

/-! ### States -/

/-- The parameters of the spec's small examples: `RING_N = 4` (43 R204, R212), the other defaults. -/
def cfgOf (k : ChKind) : Params := { Params.default with kind := k, ringN := 4, ringN_ge := by decide }

/-- Right after reset. -/
def base (k : ChKind) : State := State.powerOn (cfgOf k) [] Env.initial

/-- What an outcome leaves, if it is a next state. -/
def after (o : Host.Outcome State Fault Refusal) : Option State :=
  match o with
  | .next t => some t
  | .fault _ => none
  | .refused _ => none

/-- One instruction from a state, read through `f`. -/
def see {α : Type} (i : Instr) (s : State) (f : State → α) : Option α := (after (exec i s)).map f

/-- `SQUARE` after `WR ENV, 0xF0` and `TRIG 2047`, `t` cycles before its next underflow (41 R160's example). -/
def tuned (t : BitVec 14) : State :=
  { base .square with reg := #v[0, 0, 0xF0, 0xFF, 0x87], period := 4, timer := t, volume := 15 }

/-- The three records of 43 R212's example, none of them snapshot yet. -/
def three : State :=
  { base .square with
    ring := [(0, ⟨10, 30, false, 5⟩), (1, ⟨30, 50, false, -5⟩), (2, ⟨50, 0, true, 0⟩)], newest := 3, wrValid := true }

/-- The records of 44 R234's example, in the snapshot, with the render of the example at frame `k`. -/
def rendering (k rc : Nat) : State :=
  { base .square with
    ring := [(0, ⟨100, 228, false, 15⟩), (1, ⟨228, 0, true, -15⟩)], newest := 2, pwe := 2, wrValid := true,
    out := [(0, 0), (1, 0), (2, 0), (3, 0), (4, 0), (5, 0)], rc := rc, render := some ⟨k, 6, 65536, 0⟩,
    env := { Env.initial with sched := [.r] } }

/-- Words pending on a port whose agent steps next. -/
def onPort (a : Agent) (ws : List Word) (s : State) : State :=
  setPort a ws { s with env := { s.env with sched := [a] } }

/-- A halted block. -/
def haltedBlock : State := { base .square with fault := .ringFull }

/-! ### Well-formedness (30_encoding.md R118) -/

theorem test_no_register_five : (Instr.rd 5).wellFormed .square = false := by decide
theorem test_register_four : (Instr.rd 4).wellFormed .wave = true := by decide
theorem test_no_sweep_in_wave : (Instr.wrSwp 0x11).wellFormed .wave = false := by decide
theorem test_no_wave_table_in_square : (Instr.wrw 0 1).wellFormed .square = false := by decide
theorem test_wave_table_in_wave : (Instr.wrw 15 1).wellFormed .wave = true := by decide

/-! ### Decoding: each word written out bit by bit, `op a b` (R101, R105) -/

theorem test_decode_nop : decode .wave [0b0000_0000_00000000] = .ok (.nop, []) := rfl
theorem test_decode_wr_swp : decode .square [0b0001_0000_00010001] = .ok (.wrSwp 0x11, []) := rfl
theorem test_decode_wr_won : decode .wave [0b0001_0000_10000000] = .ok (.wrWon 0x80, []) := rfl
theorem test_decode_wr_len : decode .square [0b0001_0001_10000000] = .ok (.wrLen 0x80, []) := rfl
theorem test_decode_wr_wlen : decode .wave [0b0001_0001_11111111] = .ok (.wrWlen 0xFF, []) := rfl
theorem test_decode_wr_env : decode .square [0b0001_0010_11110000] = .ok (.wrEnv 0xF0, []) := rfl
theorem test_decode_wr_wvol : decode .wave [0b0001_0010_00100000] = .ok (.wrWvol 0x20, []) := rfl
theorem test_decode_wr_flo : decode .square [0b0001_0011_11111111] = .ok (.wrFlo 0xFF, []) := rfl
theorem test_decode_wr_fhi : decode .wave [0b0001_0100_10000111] = .ok (.wrFhi 0x87, []) := rfl
theorem test_decode_rd : decode .square [0b0010_0100_00000000] = .ok (.rd 4, []) := rfl
theorem test_decode_envclk : decode .square [0b0011_0000_00000000] = .ok (.envclk, []) := rfl
theorem test_decode_cyc : decode .square [0b0100_0000_00000000] = .ok (.cyc, []) := rfl
theorem test_decode_emu : decode .square [0b0101_1111_11111111] = .ok (.emu 4095, []) := rfl
theorem test_decode_fdivn : decode .square [0b0110_0000_00001010] = .ok (.fdivn 10, []) := rfl
theorem test_decode_ins :
    decode .square [0b0111_0000_11111011, 0x001E, 0x0001, 0x0000, 0x8000] = .ok (.ins (-5) 0x800000000001001E, []) := rfl
theorem test_decode_upd :
    decode .square [0b1000_0000_00000000, 4, 3, 2, 1, 0] = .ok (.upd 0x0001000200030004, [0]) := rfl
theorem test_decode_rnd :
    decode .square [0b1001_0000_00000110, 0xAC44, 0x0001, 1, 0, 0, 2] = .ok (.rnd 6 0x1AC44 0x0002000000000001, []) := rfl
theorem test_decode_wrw : decode .wave [0b1010_1111_00000001] = .ok (.wrw 15 1, []) := rfl
theorem test_decode_rdw : decode .wave [0b1011_0011_00000000] = .ok (.rdw 3, []) := rfl
theorem test_decode_oclr : decode .square [0b1100_0000_00000110] = .ok (.oclr 6, []) := rfl
theorem test_decode_rst : decode .square [0b1111_0000_00000000] = .ok (.rst, []) := rfl
theorem test_decode_reserved : decode .wave [0xD000] = .error .reservedOpcode := rfl
theorem test_decode_select_five : decode .wave [0x1500] = .error .noSuchRegister := rfl
theorem test_decode_nop_not_zero : decode .wave [0x0001] = .error .nonZeroField := rfl
theorem test_decode_no_wave_table : decode .square [0xA001] = .error .noWaveTable := rfl
theorem test_decode_truncated : decode .square [0x7005, 0x000A] = .error .truncated := rfl
theorem test_decode_wrong_port : decodeOn .square .r [0x4000] = .error .wrongPort := rfl
theorem test_table_word_wrw : decodeTableWord 16 0xA301 = some (.wrw 3 1) := rfl
theorem test_encode_ins : encode (.ins (-5) 30) = [0x70FB, 0x001E, 0, 0, 0] := by decide
theorem test_trig_expansion : pseudoTrig 2047 = [.wrFlo 0xFF, .wrFhi 0x87] := by decide
theorem test_emul_expansion : pseudoEmul 4100 = [.emu 4095, .emu 5] := by decide
/-- 41 R159: `n = currentCycle - cyc`, which is `EMU 0` where they are equal, and requires `currentCycle >= cyc`. -/
theorem test_emulate_to :
    [pseudoEmulateTo 7 7, pseudoEmulateTo 9 7, pseudoEmulateTo 4102 7, pseudoEmulateTo 6 7] =
      [some [.emu 0], some [.emu 2], some [.emu 4095], none] := by decide

/-! ### Parameters (00_scope.md R10, 30_encoding.md R104) -/

/-- `CUR_W` is 17 for `RING_N = 131072` (R10); the frame sequencer's period is 8192. -/
theorem test_derived_parameters : Params.default.curW = 17 ∧ fseqPeriod Params.default = 8192 :=
  ⟨(Nat.clog_pow 2 17 (by decide) : Nat.clog 2 (2 ^ 17) = 17), by decide⟩

/-- The same state with other widths: `AMP_W`, `OUT_W`. -/
def wide (a o : Nat) (ha : 5 ≤ a) (ho : a ≤ o) (s : State) : State :=
  { s with cfg := { s.cfg with ampW := a, outW := o, ampW_ge := ha, outW_ge := ho } }

/-- R104: the byte is sign-extended to a wider `AMP_W`, and is its own value in a narrower one that holds it. -/
theorem test_operand_widths :
    (wide 12 16 (by decide) (by decide) (base .square)).insAmp 0xFB = -5 ∧ (base .square).insAmp 0x80 = -128 ∧
      (wide 5 16 (by decide) (by decide) (base .square)).insAmp 0xF0 = -16 := by decide

/-- 44 R237: the sum wraps modulo `2^OUT_W`: 127 + 15 in 8 bits is -114. -/
theorem test_frame_wraps :
    ((renderStep ⟨3, 6, 65536, 0⟩ (wide 8 8 (by decide) (by decide) (setFrame 3 127 (rendering 3 0)))).frame 3,
      (renderStep ⟨3, 6, 65536, 0⟩ (setFrame 3 127 (rendering 3 0))).frame 3) = (-114, 142) := by decide

/-! ### One step each, with the results the spec's rules and examples give -/

/-- 45 R260's example. -/
theorem test_wr_swp : see (.wrSwp 0x11) (base .square) (fun t => (t.reg[0], t.ni.bits, t.period)) = some (0x11, 1, 0) := by decide
/-- 45 R260: a zero byte sets no marker. -/
theorem test_wr_swp_zero : see (.wrSwp 0) (base .square) (fun t => t.ni.bits) = some 0 := by decide
/-- 45 R266's example. -/
theorem test_wr_won : see (.wrWon 0x80) (base .wave) (fun t => (t.reg[0], t.won)) = some (0x80, true) := by decide
/-- 45 R261's example: duty code 2. -/
theorem test_wr_len : see (.wrLen 0x80) (base .square) (fun t => (t.reg[1], t.duty)) = some (0x80, 2) := by decide
/-- 45 R267's example. -/
theorem test_wr_wlen : see (.wrWlen 0xFF) (base .wave) (fun t => t.reg[1]) = some 0xFF := by decide
/-- 42 R182's example. -/
theorem test_wr_env : see (.wrEnv 0xF0) (base .square) (fun t => (t.reg[2], t.volume, t.envCnt)) = some (0xF0, 15, 0) := by decide
/-- 42 R182: the divider restarts on every write. -/
theorem test_wr_env_again :
    see (.wrEnv 0x37) { base .square with envCnt := 5, volume := 9 } (fun t => (t.volume, t.envCnt)) = some (3, 0) := by decide
/-- 45 R268's example: shift code 1, the volume untouched. -/
theorem test_wr_wvol : see (.wrWvol 0x20) (base .wave) (fun t => (t.wvol, t.volume)) = some (1, 0) := by decide
/-- 41 R151's example, `c = 1024` gives 4096: here the low half with the high half set. -/
theorem test_wr_flo : see (.wrFlo 0) { base .square with reg := #v[0, 0, 0, 9, 4] } (fun t => (t.period, t.timer)) = some (4096, 0) := by decide
/-- 41 R152: a frequency write without bit 7 leaves the count in progress alone. -/
theorem test_wr_fhi_no_trigger : see (.wrFhi 0x07) { tuned 3 with reg := #v[0, 0, 0, 0xFE, 0] } (fun t => (t.period, t.timer)) = some (8, 3) := by decide
/-- 41 R157: the trigger loads the period of the complete new code and reloads the envelope; bit 6 sets `ni.LENGTH`. -/
theorem test_wr_fhi_trigger :
    see (.wrFhi 0xC7) { tuned 1 with volume := 2, envCnt := 0 } (fun t => (t.period, t.timer, t.volume, t.ni.bits)) = some (4, 4, 15, 2) := by decide
/-- 45 R262's example. -/
theorem test_rd : see (.rd 4) (tuned 1) (fun t => t.resp) = some 0x87 := by decide
/-- 30 R118. -/
theorem test_rd_five : see (.rd 5) (tuned 1) (fun t => (t.fault.code, t.resp)) = some (2, 0) := by decide
/-- 42 R185's example: 14 to 15, where it stays. -/
theorem test_envclk : see .envclk { base .square with reg := #v[0, 0, 0xE9, 0, 0], volume := 14 } (fun t => t.volume) = some 15 := by decide
theorem test_envclk_clamps : see .envclk { base .square with reg := #v[0, 0, 0xE9, 0, 0], volume := 15 } (fun t => t.volume) = some 15 := by decide
/-- 41 R156's example, third and fourth `CYC`. -/
theorem test_cyc : see .cyc (tuned 3) (fun t => (t.cyc, t.timer, t.fired)) = some (1, 2, false) := by decide
theorem test_cyc_underflow :
    see .cyc { tuned 1 with cyc := 3, volume := 0 } (fun t => (t.cyc, t.timer, t.fired, t.dstep, t.slot 0)) =
      some (4, 4, true, 1, ⟨4, 0, true, 0⟩) := by decide
/-- 41 R158: the first of nine cycles leaves eight under way and `fired` alone. -/
theorem test_emu : see (.emu 9) (tuned 4) (fun t => (t.cyc, t.emu, t.fired)) = some (1, some ⟨8, false⟩, false) := by decide
theorem test_emu_last : (emuCycle ⟨1, true⟩ { tuned 4 with cyc := 8 }).fired = true := by decide
/-- 41 R160's example. -/
theorem test_fdivn_three : see (.fdivn 3) (tuned 4) (fun t => (t.cyc, t.timer, t.fired, t.newest)) = some (3, 1, false, 0) := by decide
theorem test_fdivn_ten :
    see (.fdivn 10) { tuned 4 with cyc := 4, dstep := 1, ring := [(0, ⟨4, 0, true, -15⟩)], newest := 1, wrValid := true }
      (fun t => (t.cyc, t.timer, t.fired, t.dstep, t.newest)) = some (14, 2, true, 2, 1) := by decide
/-- 43 R204's example. -/
theorem test_ins_first : see (.ins 5 10) (base .square) (fun t => (t.slot 0, t.newest)) = some (⟨10, 0, true, 5⟩, 1) := by decide
theorem test_ins_second :
    see (.ins (-5) 30) { base .square with ring := [(0, ⟨10, 0, true, 5⟩)], newest := 1, wrValid := true }
      (fun t => (t.slot 0, t.slot 1, t.newest)) = some (⟨10, 30, false, 5⟩, ⟨30, 0, true, -5⟩, 2) := by decide
/-- 43 R212's example. -/
theorem test_upd_strict : see (.upd 30) three (fun t => (t.oldest, t.pwe)) = some (0, 3) := by decide
theorem test_upd_keeps_last : see (.upd 1000) three (fun t => (t.oldest, t.pwe)) = some (2, 3) := by decide
/-- 44 R234's example: the begin step, then frame 3 at position 192 and frame 4 at 256, which passes a record. -/
theorem test_rnd_begins :
    see (.rnd 6 65536 0) { rendering 0 0 with render := none, rc := 3 } (fun t => (t.oldest, t.pwe, t.rc, t.render)) =
      some (0, 2, 0, some ⟨0, 6, 65536, 0⟩) := by decide
theorem test_rnd_frame :
    ((renderStep ⟨3, 6, 65536, 0⟩ (rendering 3 0)).frame 3, (renderStep ⟨4, 6, 65536, 0⟩ (rendering 4 0)).frame 4,
      (renderStep ⟨4, 6, 65536, 0⟩ (rendering 4 0)).rc) = (15, -15, 1) := by decide
/-- 45 R269, R271's example. -/
theorem test_wrw : see (.wrw 3 0x67) (base .wave) (fun t => (t.wram[3], t.wram[2])) = some (0x67, 0) := by decide
theorem test_rdw : see (.rdw 3) { base .wave with wram := (base .wave).wram.set 3 0x67 } (fun t => t.resp) = some 0x67 := by decide
/-- 44 R232: frames 0 to 1, not 2. -/
theorem test_oclr : see (.oclr 2) { base .square with out := [(1, 7), (2, 8)] } (fun t => (t.frame 0, t.frame 1, t.frame 2)) = some (0, 0, 8) := by decide
/-- 70 R340's example: out of the halted state. -/
theorem test_rst :
    see .rst { three with fault := .ringFull, cyc := 9 } (fun t => (t.fault.code, t.newest, t.oldest, t.wrValid, t.cyc)) =
      some (0, 0, 0, false, 0) := by decide
theorem test_nop : see .nop (tuned 1) (fun t => (t.cyc, t.timer)) = some (0, 1) := by decide
/-- 10_state.md R42 and 45 R263: with 50% duty steps 0 to 3 are `+volume`, steps 4 to 7 `-volume`. -/
theorem test_square_half :
    ((List.range 8).map fun k => squareAmp (BitVec.ofNat 3 k) 2 9) = [9, 9, 9, 9, -9, -9, -9, -9] := by decide
/-- Three entries of 45 R272's table: -8 under codes 0, 2, 3, and -1, which stays -1. -/
theorem test_wave_shift : [waveAmp true 0 0, waveAmp true 2 0, waveAmp true 3 0, waveAmp true 3 7] = [0, -4, -2, -1] := by decide
/-- 44 R247's worked positions. -/
theorem test_positions : [framePos 4194304 44100 0 1, framePos 4194304 44100 0 2, framePos 4194304 44100 0 441] = [95, 190, 41943] := by decide
/-- 60 R302: an illegal head raises before anything else and is taken off the port. -/
theorem test_illegal_head :
    (after (step (onPort .w [0xE123, 0x0000] (base .square)))).map (fun t => (t.fault.code, t.env.wPort)) =
      some (2, [0x0000]) := by decide
/-- 60 R306: a halted block refuses. -/
theorem test_halted_refuses :
    (after (step (onPort .w [0x4000] haltedBlock))).map (fun t => (t.cyc, t.env.wPort, t.fault)) = some (0, [], .ringFull) := by decide
/-- 20_memory.md R91: the frame at 256 sees the last record closed at 240, and gets silence. -/
theorem test_race_closed_view :
    (renderStep ⟨4, 6, 65536, 0⟩ (closeSlot 1 240 (rendering 4 0))).frame 4 = 0 := by decide
/-- The host's placement runs the command as the first step after reset. -/
theorem test_with_fetch_word : (after (step (State.reset.withFetchWord 16 0x6003))).map (fun t => t.cyc) = some 3 := by decide

/-! ### Invariants of concrete states -/

theorem forall_succ_lt {n : Nat} {P : Nat → Prop} (h : ∀ j, j < n → j + 1 < n → P j) : ∀ j, j + 1 < n → P j :=
  fun j hj => h j (by omega) hj

theorem base_ring (k : ChKind) : (base k).RingInv := by
  cases k <;> exact
    { range := ⟨by decide, by decide, by decide⟩, window := by decide, capacity := by decide, written := by decide
      lastOpen := by decide, abut := forall_succ_lt (by decide), distinct := forall_succ_lt (by decide)
      lastKept := by decide }

theorem three_ring : three.RingInv :=
  { range := ⟨by decide, by decide, by decide⟩, window := by decide, capacity := by decide, written := by decide
    lastOpen := by decide, abut := forall_succ_lt (by decide), distinct := forall_succ_lt (by decide)
    lastKept := by decide }

theorem rendering_ring : (rendering 4 1).RingInv :=
  { range := ⟨by decide, by decide, by decide⟩, window := by decide, capacity := by decide, written := by decide
    lastOpen := by decide, abut := forall_succ_lt (by decide), distinct := forall_succ_lt (by decide)
    lastKept := by decide }

/-- What is pending on the ports does not matter to the ring. -/
theorem onPort_ring (a : Agent) (ws : List Word) (s : State) (h : s.RingInv) : (onPort a ws s).RingInv := by
  cases a <;> exact
    { range := ⟨h.range.newest_lt, h.range.oldest_lt, h.range.pwe_lt⟩, window := h.window, capacity := h.capacity
      written := h.written, lastOpen := h.lastOpen, abut := h.abut, distinct := h.distinct, lastKept := h.lastKept }

theorem rendering_inv : (rendering 4 1).RenderInv := by
  intro r h
  cases h
  exact ⟨by decide, by decide, by decide, by decide⟩

/-- Record 0, passed at frame 4, ends at 228, before its position 256. -/
theorem rendering_passed : (rendering 4 1).PassedFor (framePos 4194304 65536 0 4) := by
  intro j hj q hq
  have h0 : j = 0 := by
    have : j < 1 := hj
    omega
  have h1 : (256 : Int) ≤ q := hq
  subst h0
  have h2 : (rendering 4 1).liveRecord 0 = ⟨100, 228, false, 15⟩ := rfl
  have h3 : (228 : Cycle).toInt = 228 := by decide
  simp only [h2, covers, h3, Bool.false_or, Bool.and_eq_false_iff, decide_eq_false_iff_not]
  right
  omega

/-! ### Witnesses: the hypotheses of each statement, met together -/

/-- `RING_N = 4` with three live records: full. -/
def full : State := { three with period := 4, timer := 1, volume := 3, cyc := 60 }

/-- At the last count. -/
def lastCycle : State := { tuned 1 with cyc := 0x7FFFFFFFFFFFFFFF }

/-- On W's turn, with an `EMU` that has three cycles to go and has fired before. -/
def midEmu (s : State) : State := onPort .w [] { s with emu := some ⟨3, true⟩ }

theorem witness_DecodeOfEncode :
    (Instr.rd 4).wellFormed .square = true ∧ (Instr.wrw 15 255).wellFormed .wave = true ∧
      (Instr.rnd 4095 0xFFFFFFFF 0x8000000000000000).wellFormed .wave = true := by decide

theorem witness_EncodeOfDecode : decode .wave [0xB300, 7] = .ok (.rdw 3, [7]) := rfl

theorem witness_OpcodeMapDecides :
    (rowsFor .wave).any (fun p => rowSelects p 0x1000 && decide (p.mnemonic = "WR_WON__d")) = true ∧
      (rowsFor .square).any (fun p => rowSelects p 0x2700) = true ∧ isDeadRd 0x2700 = true ∧ isDeadRd 0x2400 = false ∧
      decode .square [0x8000, 1, 2, 3, 4, 5] = .ok (.upd 0x0004000300020001, [5]) := ⟨by decide, by decide, by decide, by decide, rfl⟩

theorem witness_IllegalHeadIsRaised :
    (base .square).Running ∧ (base .square).PortFree .w ∧ (base .square).PortFree .r ∧
      (onPort .w [0x1500, 3] (base .square)).portWords .w = 0x1500 :: [3] ∧
      illegalHead .square 0x1500 ∧ illegalHead .wave 0x1FFF ∧ illegalHead .square 0x2500 ∧ illegalHead .square 0xA000 ∧
      illegalHead .square 0xBFFF ∧ illegalHead .wave 0xD000 ∧ illegalHead .wave 0xEFFF ∧ illegalHead .square 0x0001 ∧
      illegalHead .square 0x2001 ∧ illegalHead .wave 0xB301 ∧ illegalHead .square 0x3001 ∧ illegalHead .square 0x4FFF ∧
      illegalHead .square 0x7100 ∧ illegalHead .square 0x8001 ∧ illegalHead .square 0xF001 := by
  refine ⟨rfl, rfl, rfl, rfl, ?_, ?_, ?_, ?_, ?_, ?_, ?_, ?_, ?_, ?_, ?_, ?_, ?_, ?_, ?_⟩ <;> unfold illegalHead <;> decide

theorem witness_WrongPortIsRaised :
    (base .square).Running ∧ (base .square).PortFree .r ∧
      decode .square ((onPort .r [0x4000] (base .square)).portWords .r) = .ok (.cyc, []) ∧ Agent.owns .r .cyc = false ∧
      Agent.owns .w (.upd 0) = false ∧ Agent.owns .host .nop = false := ⟨rfl, rfl, rfl, rfl, rfl, rfl⟩

theorem witness_TruncatedCommandIsRaised :
    (base .square).Running ∧ (base .square).PortFree .r ∧
      ([1, 2, 3, 4, 5] : List Word).length < extWords (opOf 0x9001) ∧ ([1, 2, 3] : List Word).length < extWords (opOf 0x7005) :=
  ⟨rfl, rfl, by decide, by decide⟩

theorem witness_StepRunsTheDecodedCommand :
    let s := onPort .w [0x4000, 0x0000] (tuned 4)
    let t := onPort .host [0xF000] (tuned 4)
    s.Running ∧ s.PortFree s.nextAgent ∧ decodeOn s.cfg.kind s.nextAgent (s.portWords s.nextAgent) = .ok (.cyc, [0x0000]) ∧
      t.Running ∧ t.PortFree t.nextAgent ∧ t.Idle ∧
      decodeOn t.cfg.kind t.nextAgent (t.portWords t.nextAgent) = .ok (.rst, []) :=
  ⟨rfl, rfl, rfl, rfl, trivial, ⟨rfl, rfl⟩, rfl⟩

theorem witness_StepContinuesOrIdles :
    let s := onPort .w [] { tuned 4 with emu := some ⟨2, false⟩ }
    s.Running ∧ s.nextAgent = .w ∧ s.emu = some ⟨2, false⟩ ∧ (rendering 4 1).Running ∧ (rendering 4 1).nextAgent = .r ∧
      (rendering 4 1).render = some ⟨4, 6, 65536, 0⟩ ∧ (onPort .r [] (base .wave)).PortFree .r ∧
      (onPort .r [] (base .wave)).portWords .r = [] := ⟨rfl, rfl, rfl, rfl, rfl, rfl, rfl, rfl⟩

theorem witness_HaltedBlockRefusesAllButReset :
    haltedBlock.fault ≠ .none ∧ (Instr.cyc ≠ .rst) ∧ (onPort .w [0x4000] haltedBlock).nextAgent = .w ∧
      (onPort .r [0x4000] haltedBlock).nextAgent = .r ∧ (onPort .host [0xF000] haltedBlock).nextAgent = .host := by decide

theorem witness_FaultIsSticky :
    haltedBlock.fault ≠ .none ∧ (∃ t, step (onPort .w [0x4000] haltedBlock) = .next t) ∧
      (∃ t, step (onPort .host [0xF000] haltedBlock) = .next t) ∧ (onPort .host [0xF000] haltedBlock).startsCommand .rst :=
  ⟨by decide, ⟨_, rfl⟩, ⟨_, rfl⟩, ⟨[], rfl⟩, trivial, .inr rfl, fun _ h => by cases h⟩

theorem witness_FaultsArePrecise :
    full.Running ∧ full.lock = .free ∧ full.emu = none ∧
      (∃ t, exec (.ins 5 (-1)) full = .next t ∧ t.fault ≠ .none) ∧ (∃ t, exec .cyc full = .next t ∧ t.fault = .ringFull) ∧
      (∃ t, step (midEmu full) = .next t ∧ t.fault = .ringFull) ∧ (∃ t, step (midEmu lastCycle) = .next t ∧ t.fault = .cycOvf) ∧
      (rendering 4 1).Running ∧ (rendering 4 1).nextAgent = .r ∧ ∃ t, step (rendering 4 1) = .next t :=
  ⟨rfl, rfl, rfl, ⟨_, rfl, by decide⟩, ⟨_, rfl, by decide⟩, ⟨_, rfl, by decide⟩, ⟨_, rfl, by decide⟩, rfl, rfl, _, rfl⟩

theorem witness_StoredOnlyWritesStore :
    (base .square).Running ∧ (base .square).cfg.kind = .square ∧ (base .wave).Running ∧ (base .wave).cfg.kind = .wave :=
  ⟨rfl, rfl, rfl, rfl⟩

theorem witness_ReadRegister :
    (tuned 1).Running ∧ (4 : BitVec 3).toNat < 5 ∧ 5 ≤ (5 : BitVec 3).toNat ∧ 5 ≤ (7 : BitVec 3).toNat :=
  ⟨rfl, by decide, by decide, by decide⟩

theorem witness_RegistersReadBackWhatWasWritten :
    (base .wave).Running ∧ wrInstr .wave 2 0x20 = some (.wrWvol 0x20) ∧ wrInstr .square 0 0x11 = some (.wrSwp 0x11) ∧
      wrInstr .square 4 0x87 = some (.wrFhi 0x87) := ⟨rfl, rfl, rfl, rfl⟩

theorem witness_WaveTableAccess :
    (base .wave).Running ∧ (base .wave).cfg.kind = .wave ∧ (base .square).Running ∧ (base .square).cfg.kind = .square :=
  ⟨rfl, rfl, rfl, rfl⟩

theorem witness_CommandsThatChangeLittle : (tuned 1).Running ∧ (tuned 1).render = none ∧ (1 : BitVec 32) ≠ 0 :=
  ⟨rfl, rfl, by decide⟩

theorem witness_WriteFrequencyLow : (base .wave).Running := rfl

theorem witness_WriteFrequencyHigh : (tuned 1).Running ∧ 128 ≤ (0x80 : Byte).toNat ∧ ¬ 128 ≤ (0x7F : Byte).toNat :=
  ⟨rfl, by decide, by decide⟩

theorem witness_PeriodFollowsCode :
    (base .wave).Running ∧ (∃ t, exec (.wrFlo 0xFF) (base .wave) = .next t) ∧ (∃ t, exec (.wrFhi 0x87) (base .wave) = .next t) :=
  ⟨rfl, ⟨_, rfl⟩, ⟨_, rfl⟩⟩

/-- The three cases of R161 at their boundary. -/
theorem witness_ClosedFormOfTicks :
    fireCount 0 3 5 = 0 ∧ fireCount 4 2 3 = 0 ∧ fireCount 4 3 3 = 1 ∧ fireCount 4 1 0 = 1 ∧ fireCount 4 7 3 = 2 := by decide

theorem witness_CycleWithoutUnderflow :
    (base .square).Running ∧ (base .square).cyc.toInt < maxI64 ∧ (base .square).period = 0 ∧
      (tuned 2).Running ∧ (tuned 2).cyc.toInt < maxI64 ∧ 2 ≤ (tuned 2).timer.toNat :=
  ⟨rfl, by decide, rfl, rfl, by decide, by decide⟩

theorem witness_CycleWithUnderflow :
    (tuned 1).Running ∧ (tuned 1).lock = .free ∧ (tuned 1).cyc.toInt < maxI64 ∧ (tuned 1).period ≠ 0 ∧
      (tuned 1).timer.toNat ≤ 1 ∧
      (atUnderflow 1 4 (tuned 1)).insertionFits (atUnderflow 1 4 (tuned 1)).sourceAmp (atUnderflow 1 4 (tuned 1)).cyc ∧
      full.Running ∧ full.lock = .free ∧ full.cyc.toInt < maxI64 ∧ full.period ≠ 0 ∧ full.timer.toNat ≤ 1 ∧
      0 ≤ (atUnderflow 1 4 full).cyc.toInt ∧ (atUnderflow 1 4 full).coalesces (atUnderflow 1 4 full).sourceAmp = false ∧
      (atUnderflow 1 4 full).outOfOrder (atUnderflow 1 4 full).cyc = false ∧ (atUnderflow 1 4 full).ringFull = true := by
  unfold State.Running State.insertionFits
  decide

theorem witness_CycleCountOverflow :
    lastCycle.Running ∧ lastCycle.cyc.toInt = maxI64 ∧ (1 : BitVec 12) ≠ 0 ∧
      (midEmu lastCycle).nextAgent = .w ∧
      maxI64 < lastCycle.cyc.toInt + ((1 : BitVec 12).toNat : Int) := by
  unfold State.Running
  decide

/-- The three clauses of `EmuCycleEffect`, for the first cycle (`tuned`, `full`) and for a later one (`midEmu`). -/
theorem witness_EmuRunsOneCycleAStep :
    (tuned 2).Running ∧ (tuned 2).lock = .free ∧ (tuned 2).cyc.toInt < maxI64 ∧ 2 ≤ (tuned 2).timer.toNat ∧
      (2 : BitVec 12) ≠ 0 ∧ (tuned 1).Running ∧ (tuned 1).period ≠ 0 ∧ (tuned 1).timer.toNat ≤ 1 ∧
      (atUnderflow 1 4 (tuned 1)).insertionFits (atUnderflow 1 4 (tuned 1)).sourceAmp (atUnderflow 1 4 (tuned 1)).cyc ∧
      (midEmu (tuned 1)).emu = some ⟨3, true⟩ ∧ (midEmu (tuned 1)).nextAgent = .w ∧ (midEmu full).Running ∧
      (midEmu full).cyc.toInt < maxI64 ∧ (midEmu full).period ≠ 0 ∧ (midEmu full).timer.toNat ≤ 1 ∧
      0 ≤ (atUnderflow 1 4 full).cyc.toInt ∧ (atUnderflow 1 4 full).coalesces (atUnderflow 1 4 full).sourceAmp = false ∧
      (atUnderflow 1 4 full).outOfOrder (atUnderflow 1 4 full).cyc = false ∧ (atUnderflow 1 4 full).ringFull = true := by
  unfold State.Running State.insertionFits
  decide

theorem witness_EmuIsRepeatedCycles :
    (onPort .w (encode (.emu 2)) (tuned 2)).Running ∧ (tuned 2).emu = none ∧ (2 : BitVec 12) ≠ 0 ∧
      (onPort .w (encode (.emu 2)) (tuned 2)).env.wPort = encode (.emu 2) ++ [] ∧
      (cycRun 2 (tuned 2)).1.Running ∧ ¬ (cycRun 2 lastCycle).1.Running := by
  unfold State.Running
  decide

theorem witness_BatchOfCycles :
    (tuned 4).Running ∧ (tuned 4).lock = .free ∧ (tuned 4).cyc.toInt + ((4 : BitVec 12).toNat : Int) ≤ maxI64 ∧
      fireCount 4 3 4 = 0 ∧ 0 < fireCount 4 4 4 ∧
      (atUnderflow 4 4 (tuned 4)).insertionFits (atUnderflow 4 4 (tuned 4)).sourceAmp (atUnderflow 4 4 (tuned 4)).cyc ∧
      0 < fireCount full.period 1 full.timer ∧
      (atUnderflow 1 4 full).coalesces (atUnderflow 1 4 full).sourceAmp = false ∧
      (atUnderflow 1 4 full).outOfOrder (atUnderflow 1 4 full).cyc = false ∧ (atUnderflow 1 4 full).ringFull = true := by
  unfold State.Running State.insertionFits
  decide

theorem witness_BatchEqualsCyclesWithoutEarlyUnderflow :
    (tuned 2).Running ∧ (2 : BitVec 12) ≠ 0 ∧ fireCount 4 ((2 : BitVec 12).toNat - 1) 2 = 0 ∧
      ∃ t, runInstrs (List.replicate (2 : BitVec 12).toNat .cyc) (tuned 2) = .next t ∧ t.Running :=
  ⟨rfl, by decide, by decide, _, rfl, by unfold State.Running; decide⟩

theorem witness_OnlyFrequencyCommandsChangeFrequency :
    (∃ t, step (onPort .w [0x13FF] (base .square)) = .next t ∧ t.code ≠ (base .square).code) ∧
      (∃ t, step (onPort .w [0x4000] (tuned 4)) = .next t ∧ t.timer ≠ (tuned 4).timer) :=
  ⟨⟨_, rfl, by decide⟩, ⟨_, rfl, by decide⟩⟩

theorem witness_SourceInsertionsAreInOrder :
    let s := { three with period := 4, timer := 1, cyc := 50, oldest := 1 }
    s.Running ∧ s.newest < s.cfg.ringN ∧ s.CycInv ∧ s.StampInv ∧ (∃ t, exec .cyc s = .next t) ∧
      (midEmu s).emu.isSome = true ∧ (midEmu s).nextAgent = .w ∧ ∃ t, step (midEmu s) = .next t := by
  refine ⟨rfl, by decide, ?_, ?_, ⟨_, rfl⟩, rfl, rfl, _, rfl⟩
  · unfold State.CycInv
    decide
  · unfold State.StampInv
    decide

theorem witness_WriteEnvelope : (base .square).Running ∧ (base .square).cfg.kind = .square := ⟨rfl, rfl⟩

theorem witness_EnvelopeClock : (tuned 1).Running := rfl

theorem witness_EnvelopeRampTiming :
    let s := { base .square with reg := #v[0, 0, 0xE9, 0, 0], volume := 14 }
    s.Running ∧ s.cfg.kind = .square ∧ s.envPeriod ≠ 0 ∧ s.envCnt = 0 := ⟨rfl, rfl, by decide, rfl⟩

theorem witness_OnlyEnvelopeCommandsChangeVolume :
    (∃ t, step (onPort .w [0x12F0] (base .square)) = .next t ∧ t.volume ≠ (base .square).volume) ∧
      ∃ t, step (onPort .w [0x1480] { tuned 1 with envCnt := 1 }) = .next t ∧ t.envCnt ≠ 1 :=
  ⟨⟨_, rfl, by decide⟩, ⟨_, rfl, by decide⟩⟩

theorem witness_SquareAmplitude : (tuned 1).cfg.kind = .square := rfl

theorem witness_WaveAmplitude : (base .wave).cfg.kind = .wave := rfl

theorem witness_InsertAppends :
    let s := { three with oldest := 1 }
    (base .square).Running ∧ (base .square).newest < 4 ∧ (0 : Int) ≤ (0 : Cycle).toInt ∧ (base .square).coalesces ((base .square).insAmp 0) = false ∧
      (base .square).outOfOrder 0 = false ∧ (base .square).ringFull = false ∧
      s.Running ∧ s.lock = .free ∧ s.newest < s.cfg.ringN ∧ s.coalesces (s.insAmp 7) = false ∧ s.outOfOrder 50 = false ∧
      s.ringFull = false ∧ s.wrValid = true := by
  unfold State.Running
  decide

theorem witness_CoalescedInsertionChangesNothing :
    full.Running ∧ full.lock = .free ∧ (0 : Int) ≤ (0 : Cycle).toInt ∧ full.wrValid = true ∧
      (full.slot (full.prev full.newest)).amp = full.insAmp 0 ∧ full.ringFull = true := by
  unfold State.Running
  decide

theorem witness_InsertionFaults :
    full.Running ∧ full.lock = .free ∧ (-1 : Cycle).toInt < 0 ∧ full.coalesces (full.insAmp 7) = false ∧
      (full.wrValid = true ∧ (49 : Cycle).toInt < (full.slot (full.prev full.newest)).start.toInt) ∧
      ¬ (full.wrValid = true ∧ (50 : Cycle).toInt < (full.slot (full.prev full.newest)).start.toInt) ∧
      (full.newest + 1) % full.cfg.ringN = full.oldest := by
  unfold State.Running
  decide

theorem witness_UpdRetiresConsumedRecords : three.Running ∧ three.lock = .free ∧ three.CursorsInRange :=
  ⟨rfl, rfl, three_ring.range⟩

theorem witness_MostRecentRecordIsNeverRetired : three.Running ∧ three.lock = .free ∧ three.RingInv := ⟨rfl, rfl, three_ring⟩

/-- W appends while R's window holds both records: the last one is closed. -/
theorem witness_WriterLeavesTheWindowAlone :
    (onPort .w (encode (.ins 3 240)) (rendering 4 1)).RingInv ∧ (onPort .w (encode (.ins 3 240)) (rendering 4 1)).nextAgent = .w ∧
      ∃ t, step (onPort .w (encode (.ins 3 240)) (rendering 4 1)) = .next t ∧ (t.slot 1).isOpen = false ∧ (t.slot 1).stop = 240 :=
  ⟨onPort_ring _ _ _ rendering_ring, rfl, _, rfl, by decide, by decide⟩

theorem witness_ClearFrames : (rendering 0 0).Running := rfl

theorem witness_RenderBegins :
    three.Running ∧ three.lock = .free ∧ ((65536 : BitVec 32) ≠ 0 ∧ ((6 : BitVec 12) ≠ 0 →
        (0 : Cycle).toInt + ((((6 : BitVec 12).toNat - 1) * three.cfg.cpuHz / (65536 : BitVec 32).toNat : Nat) : Int) ≤ maxI64)) ∧
      ((2 : BitVec 12) ≠ 0 ∧ maxI64 < (0x7FFFFFFFFFFFFFFF : Cycle).toInt +
        ((((2 : BitVec 12).toNat - 1) * three.cfg.cpuHz / (65536 : BitVec 32).toNat : Nat) : Int)) :=
  ⟨rfl, rfl, by decide, by decide⟩

theorem witness_FrameStepAddsTheWindowSample :
    (rendering 4 1).Running ∧ (rendering 4 1).render = some ⟨4, 6, 65536, 0⟩ ∧ (rendering 4 1).nextAgent = .r ∧
      (4 : Nat) < 6 ∧ (rendering 4 1).RingInv ∧ (rendering 4 1).RenderInv ∧
      (rendering 4 1).PassedFor (framePos 4194304 65536 0 4) ∧
      (rendering 6 1).Running ∧ (rendering 6 1).render = some ⟨6, 6, 65536, 0⟩ ∧ (6 : Nat) ≤ 6 :=
  ⟨rfl, rfl, rfl, by decide, rendering_ring, rendering_inv, rendering_passed, rfl, rfl, by decide⟩

theorem witness_UninterruptedRender :
    let s := onPort .r (encode (.rnd 6 65536 0)) three
    s.Running ∧ s.lock = .free ∧ s.render = none ∧ s.RingInv ∧ s.env.rPort = encode (.rnd 6 65536 0) ++ [] ∧
      (65536 : BitVec 32) ≠ 0 ∧ ((6 : BitVec 12) ≠ 0 →
        (0 : Cycle).toInt + ((((6 : BitVec 12).toNat - 1) * s.cfg.cpuHz / (65536 : BitVec 32).toNat : Nat) : Int) ≤ maxI64) :=
  ⟨rfl, rfl, rfl, onPort_ring _ _ _ three_ring, rfl, by decide, by decide⟩

theorem witness_TwoViewsOfTheLastSlot :
    (rendering 4 1).RingInv ∧ 0 < (rendering 4 1).dist (rendering 4 1).oldest (rendering 4 1).pwe ∧
      ((rendering 4 1).slot 1).isOpen = true ∧ ((rendering 4 1).slot 1).start.toInt ≤ (240 : Cycle).toInt ∧
      (239 : Int) < (240 : Cycle).toInt ∧ (240 : Cycle).toInt ≤ (240 : Int) :=
  ⟨rendering_ring, by decide, by decide, by decide, by decide, by decide⟩

theorem witness_ResetRestoresEverything :
    ((tuned 1).Running → (tuned 1).Idle) ∧ (haltedBlock.Running → haltedBlock.Idle) := ⟨fun _ => ⟨rfl, rfl⟩, fun _ => ⟨rfl, rfl⟩⟩

theorem witness_ResetWaitsForIdleAgents :
    let s := onPort .host [0xF000] (rendering 4 1)
    s.Running ∧ ¬ s.Idle ∧ s.nextAgent = .host ∧ s.env.hostPort = 0xF000 :: [] := by
  unfold State.Running State.Idle
  decide

theorem witness_ResetMeetsTheInvariants :
    Memory.wf ([(0, 1), (5, -2)] : Memory Int) = true ∧
      ([(0, 1), (5, -2)] : Memory Int).all (fun c => fits Params.default.outW c.2) = true := by decide

theorem witness_StepKeepsTheRingInvariants : three.RingInv ∧ ∃ t, step (onPort .r (encode (.upd 31)) three) = .next t :=
  ⟨three_ring, _, rfl⟩

theorem witness_StepKeepsTheRenderInvariant :
    (rendering 4 1).RingInv ∧ (rendering 4 1).RenderInv ∧ ∃ t, step (rendering 4 1) = .next t := ⟨rendering_ring, rendering_inv, _, rfl⟩

theorem witness_StepKeepsStorageLockAndParameters :
    three.WidthInv ∧ three.StorageInv ∧ three.lock = .free ∧ ∃ t, step (onPort .w [0x4000] three) = .next t := by
  unfold State.WidthInv State.StorageInv
  exact ⟨by decide, by decide, rfl, _, rfl⟩

theorem witness_StepKeepsTheUnitInvariants :
    (tuned 1).DividerInv ∧ (tuned 1).EnvelopeInv ∧ (tuned 1).AbsentInv ∧ ∃ t, step (onPort .w [0x4000] (tuned 1)) = .next t := by
  unfold State.DividerInv State.EnvelopeInv State.AbsentInv
  exact ⟨by decide, by decide, by decide, _, rfl⟩

theorem witness_CycleCountOnlyGrows :
    (tuned 1).CycInv ∧ ∃ t, step (onPort .w [0x4000] (tuned 1)) = .next t ∧ t.cyc ≠ (tuned 1).cyc := by
  unfold State.CycInv
  exact ⟨by decide, _, rfl, by decide⟩

theorem witness_NeitherAgentWritesTheOthersState :
    (∃ t, step (onPort .w [0x4000] (tuned 1)) = .next t) ∧ (∃ t, step (rendering 4 1) = .next t) ∧
      (onPort .w [0x4000] (tuned 1)).nextAgent = .w ∧ (rendering 4 1).nextAgent = .r := ⟨⟨_, rfl⟩, ⟨_, rfl⟩, rfl, rfl⟩

theorem witness_ReaderLearnsNothingPrivate :
    AgreeForR (rendering 4 1) { rendering 4 1 with cyc := 77, reg := #v[1, 2, 3, 4, 5], resp := 9 } :=
  ⟨rfl, rfl, rfl, rfl, rfl, rfl, rfl, rfl, rfl, rfl, rfl, rfl⟩

theorem witness_WriterLearnsNothingPrivate :
    AgreeForW three { three with samples := 77, pwe := 3, rc := 2, out := [(0, 5)] } :=
  ⟨rfl, rfl, rfl, rfl, rfl, rfl, rfl, rfl, rfl, rfl, rfl, rfl, rfl, rfl, rfl, rfl, rfl, rfl, rfl, rfl, rfl⟩

/-- Slot 3 is dead in the states `rendering`. -/
theorem witness_DeadSlotsAreNeverRead :
    (rendering 4 1).RingInv ∧ (rendering 4 1).RenderInv ∧ AgreeButDead (rendering 4 1) (setSlot 3 ⟨7, 8, true, 9⟩ (rendering 4 1)) ∧
      (∃ t, step (rendering 4 1) = .next t) ∧ ∃ t, step (setSlot 3 ⟨7, 8, true, 9⟩ (rendering 4 1)) = .next t :=
  ⟨rendering_ring, rendering_inv, ⟨rfl, by decide⟩, ⟨_, rfl⟩, ⟨_, rfl⟩⟩

end Sys2Proof.Tests
end

section
/-! PROOF. Totality of the step (00_scope.md R16): each agent's turn answers a next state. -/

namespace Sys2Proof.Machine

/-- The one command that can stop is `RST`; starting any other, or none, answers a next state. -/
theorem startCommand_next (a : Agent) (s : State)
    (h : ∀ rest, decodeOn s.cfg.kind a (s.portWords a) ≠ .ok (.rst, rest)) : ∃ t, startCommand a s = .next t := by
  rcases startCommand_cases a s with ⟨_, hs⟩ | ⟨i, rest, hd, hs⟩ | ⟨_, _, _, hs⟩
  · exact ⟨_, hs⟩
  · have hi : i ≠ .rst := by
      rintro rfl
      exact h rest hd
    rw [hs]
    exact exec_next i _ hi
  · exact ⟨_, hs⟩

/-- On the port of W or R, `RST` is no command (60_exceptions.md R320). -/
theorem decodeOn_ne_rst {a : Agent} (ha : a ≠ .host) (k : ChKind) (ws rest : List Word) :
    decodeOn k a ws ≠ .ok (.rst, rest) :=
  fun hd => ha ((owns_rst_iff a .rst (decodeOn_ok hd).2).2 rfl)

theorem turnW_next (s : State) : ∃ t, turnW s = .next t := by
  rcases turnW_cases s with ⟨_, _, hs⟩ | ⟨_, _, hs⟩ | ⟨_, _, _, hs⟩ | ⟨_, _, hs⟩
  · exact ⟨_, hs⟩
  · exact ⟨_, hs⟩
  · exact ⟨_, hs⟩
  · rw [hs]
    exact startCommand_next .w s (decodeOn_ne_rst (by decide) _ _)

theorem turnR_next (s : State) : ∃ t, turnR s = .next t := by
  rcases turnR_cases s with ⟨_, _, hs⟩ | ⟨_, _, hs⟩ | ⟨_, _, _, hs⟩ | ⟨_, _, hs⟩
  · exact ⟨_, hs⟩
  · exact ⟨_, hs⟩
  · exact ⟨_, hs⟩
  · rw [hs]
    exact startCommand_next .r s (decodeOn_ne_rst (by decide) _ _)

@[simp] theorem dropCommand_underWay (a : Agent) (s : State) : (dropCommand a s).underWay = s.underWay := by
  rw [dropCommand_frame]; rfl

/-- With nothing under way `RST` is the reset (70 R340); only then does the host's turn run it (60_exceptions.md R322). -/
theorem execRst_next (s : State) (h : s.underWay = false) : execRst s = .next (resetBlock s) := by
  simp [execRst, h]

theorem turnHost_next (s : State) : ∃ t, turnHost s = .next t := by
  unfold turnHost
  split
  · exact ⟨_, rfl⟩
  · rename_i x ws hp
    split_ifs with hx hu hh
    · exact ⟨_, rfl⟩
    · exact ⟨_, execRst_next _ (by simpa using hu)⟩
    · exact ⟨_, rfl⟩
    · refine startCommand_next .host s fun rest hd => hx ?_
      rw [hp] at hd
      exact (decode_rst _ _ _ _ (decodeOn_ok hd).1).1

/-- Settles O11: the turn of each of the three agents answers a next state. -/
theorem everyStepAnswersNext : Obligations.EveryStepAnswersNext := by
  intro s
  unfold step agentTurn
  split
  · exact turnW_next _
  · exact turnR_next _
  · exact turnHost_next _

end Sys2Proof.Machine
end

section
/-! PROOF. What every step keeps: the parameters, the stored widths, canonical storage and the free lock. -/

namespace Sys2Proof.Machine

/-- Going from `s` to `t` keeps the parameters (00_scope.md R12), the stored widths (10_state.md R53, R57), canonical
storage (R61) and the free lock (20_memory.md R85). A preorder, so that it composes along an operation's parts. -/
structure KeepsStorage (s t : State) : Prop where
  cfg     : t.cfg = s.cfg
  width   : s.WidthInv → t.WidthInv
  storage : s.StorageInv → t.StorageInv
  lock    : s.lock = .free → t.lock = .free

namespace KeepsStorage

variable {s t u : State}

theorem refl (s : State) : KeepsStorage s s := ⟨rfl, id, id, id⟩

theorem trans (h : KeepsStorage s t) (h' : KeepsStorage t u) : KeepsStorage s u :=
  ⟨h'.cfg.trans h.cfg, h'.width ∘ h.width, h'.storage ∘ h.storage, h'.lock ∘ h.lock⟩

/-- Only parameters, ring, output frames and lock matter. -/
theorem of_eq (hc : t.cfg = s.cfg) (hr : t.ring = s.ring) (ho : t.out = s.out) (hl : t.lock = s.lock) :
    KeepsStorage s t where
  cfg := hc
  width := by simp only [State.WidthInv, hc, hr, ho, imp_self]
  storage := by simp only [State.StorageInv, hr, ho, imp_self]
  lock h := hl.trans h

/-- Releasing the lock, after a raise too (log 16). -/
theorem release (h : KeepsStorage s t) : KeepsStorage s { t with lock := .free } :=
  ⟨h.cfg, h.width, h.storage, fun _ => rfl⟩

end KeepsStorage

/-! ### Faults and the two places that are written: ring slots and output frames -/

theorem raise_keepsStorage (x : FaultCode) (s : State) : KeepsStorage s (raise x s) :=
  .of_eq (by simp) (by simp) (by simp) (by simp)

/-- A record whose amplitude is an `i<AMP_W>` wherever the listed ones are may be written. -/
theorem setSlot_keepsStorage {s : State} (i : Nat) (r : Record) (h : s.WidthInv → fits s.cfg.ampW r.amp = true) :
    KeepsStorage s (setSlot i r s) where
  cfg := rfl
  width hw := ⟨Memory.all_write_value (p := fun c : Record => fits s.cfg.ampW c.amp) i hw.1 (h hw), hw.2⟩
  storage hs := ⟨Memory.wf_write _ _ _ hs.1, hs.2⟩
  lock := id

/-- A frame that is an `i<OUT_W>` may be written. -/
theorem setFrame_keepsStorage {s : State} (k : Nat) (v : Int) (h : fits s.cfg.outW v = true) :
    KeepsStorage s (setFrame k v s) where
  cfg := rfl
  width hw := ⟨hw.1, Memory.all_write_value (p := fits s.cfg.outW) k hw.2 h⟩
  storage hs := ⟨hs.1, Memory.wf_write _ _ _ hs.2⟩
  lock := id

/-! ### Agent W: insertions, cycles, the envelope -/

theorem closeLast_keepsStorage (c : Cycle) (s : State) : KeepsStorage s (closeLast c s) := by
  unfold closeLast
  split
  · exact setSlot_keepsStorage _ _ fun hw => slot_amp_fits s _ hw.1
  · exact .refl s

theorem appendRecord_keepsStorage {amp : Int} (c : Cycle) {s : State} (h : fits s.cfg.ampW amp = true) :
    KeepsStorage s (appendRecord amp c s) :=
  (setSlot_keepsStorage s.newest ⟨c, 0, true, amp⟩ fun _ => h).trans (.of_eq rfl rfl rfl rfl)

theorem insertRecord_keepsStorage {amp : Int} (c : Cycle) {s : State} (h : fits s.cfg.ampW amp = true) :
    KeepsStorage s (insertRecord amp c s) := by
  rcases insertRecord_cases amp c s with ⟨_, e⟩ | ⟨_, _, e⟩ | ⟨_, _, _, e⟩ | ⟨_, _, _, _, e⟩ | ⟨_, _, _, _, e⟩ <;> rw [e]
  · exact raise_keepsStorage _ s
  · exact .refl s
  · exact raise_keepsStorage _ s
  · exact raise_keepsStorage _ s
  · have hclose := closeLast_keepsStorage c s
    exact (hclose.trans (appendRecord_keepsStorage c (hclose.cfg ▸ h))).trans (.of_eq rfl rfl rfl rfl)

theorem insertEvent_keepsStorage {amp : Int} (c : Cycle) {s : State} (h : fits s.cfg.ampW amp = true) :
    KeepsStorage s (insertEvent amp c s) := by
  rw [insertEvent_eq]
  exact (insertRecord_keepsStorage c h).release

theorem underflow_keepsStorage (s : State) : KeepsStorage s (underflow s) :=
  have hstep : KeepsStorage s (advanceStep s) := .of_eq (by simp) (by simp) (by simp) (by simp)
  hstep.trans (insertEvent_keepsStorage _ (sourceAmp_fits _))

/-- A count of cycles and a timer are neither parameter, storage nor lock. -/
theorem advance_keepsStorage (n : Nat) (timer : BitVec 14) (s : State) :
    KeepsStorage s { advanceCyc n s with timer := timer } := .of_eq rfl rfl rfl rfl

theorem cycle_keepsStorage (s : State) : KeepsStorage s (cycle s).state := by
  rcases cycle_cases s with ⟨_, e⟩ | ⟨_, _, e⟩ | ⟨_, _, e⟩ <;> rw [e]
  · exact raise_keepsStorage _ s
  · exact advance_keepsStorage 1 _ s
  · exact (advance_keepsStorage 1 _ s).trans (underflow_keepsStorage _)

theorem oneCycle_keepsStorage (s : State) : KeepsStorage s (oneCycle s) := by
  unfold oneCycle
  dsimp only
  split
  · exact cycle_keepsStorage s
  · exact (cycle_keepsStorage s).trans (.of_eq rfl rfl rfl rfl)

theorem emuCycle_keepsStorage (e : EmuRun) (s : State) : KeepsStorage s (emuCycle e s) := by
  refine (cycle_keepsStorage s).trans ?_
  unfold emuCycle
  dsimp only
  split_ifs <;> exact .of_eq rfl rfl rfl rfl

theorem startEmu_keepsStorage (n : Nat) (s : State) : KeepsStorage s (startEmu n s) := by
  unfold startEmu
  split
  · exact .of_eq rfl rfl rfl rfl
  · exact emuCycle_keepsStorage _ s

theorem batch_keepsStorage (n : Nat) (s : State) : KeepsStorage s (batch n s) := by
  unfold batch
  dsimp only
  split_ifs
  · exact raise_keepsStorage _ s
  · exact (advance_keepsStorage n _ s).trans (underflow_keepsStorage _)
  · exact ((advance_keepsStorage n _ s).trans (underflow_keepsStorage _)).trans (.of_eq rfl rfl rfl rfl)
  · exact .of_eq rfl rfl rfl rfl

theorem tickEnvelope_keepsStorage (s : State) : KeepsStorage s (tickEnvelope s) := by
  unfold tickEnvelope
  split
  · exact .refl s
  · split
    · exact raise_keepsStorage _ s
    · dsimp only
      split <;> exact .of_eq rfl rfl rfl rfl

theorem trigger_keepsStorage (s : State) : KeepsStorage s (trigger s) := by
  unfold trigger
  dsimp only
  split <;> exact .of_eq rfl rfl rfl rfl

theorem writeFhi_keepsStorage (d : Byte) (s : State) : KeepsStorage s (writeFhi d s) := by
  have hmark : KeepsStorage s (markLength d (recomputePeriod (setReg 4 d s))) :=
    .of_eq (by simp) (by simp) (by simp) (by simp)
  unfold writeFhi
  dsimp only
  split
  · exact hmark.trans (trigger_keepsStorage _)
  · exact hmark

theorem readReg_keepsStorage (sel : BitVec 3) (s : State) : KeepsStorage s (readReg sel s) := by
  unfold readReg
  split
  · exact .of_eq rfl rfl rfl rfl
  · exact raise_keepsStorage _ s

/-! ### Agent R: the queue, the render, the output frames -/

theorem updateQueue_keepsStorage (ref : Cycle) (s : State) : KeepsStorage s (updateQueue ref s) := by
  rw [updateQueue_frame]
  exact .of_eq rfl rfl rfl rfl

theorem beginRender_keepsStorage (frames : Nat) (fs : BitVec 32) (ref : Cycle) (s : State) :
    KeepsStorage s (beginRender frames fs ref s) := by
  unfold beginRender
  split
  · exact raise_keepsStorage _ s
  · exact (updateQueue_keepsStorage ref s).trans (.of_eq rfl rfl rfl rfl)

/-- The accumulated frame is narrowed to `OUT_W` bits (44_renderer.md R237). -/
theorem renderStep_keepsStorage (r : RenderRun) (s : State) : KeepsStorage s (renderStep r s) := by
  unfold renderStep
  split
  · exact (setFrame_keepsStorage r.k _ (fits_narrow (outW_pos s.cfg) _)).trans (.of_eq rfl rfl rfl rfl)
  · exact .of_eq rfl rfl rfl rfl

theorem fits_zero (w : Nat) : fits w 0 = true := (fits_iff w 0).2 ⟨by simp, by positivity⟩

theorem clearFrames_keepsStorage (frames : Nat) (s : State) : KeepsStorage s (clearFrames frames s) := by
  induction frames with
  | zero => exact .refl s
  | succ k ih => exact ih.trans (setFrame_keepsStorage k 0 (fits_zero _))

/-! ### Commands and steps -/

theorem forKind_keepsStorage {f : State → State} (k : ChKind) (s : State) (h : KeepsStorage s (f s)) :
    KeepsStorage s (forKind k f s) := by
  by_cases hk : s.cfg.kind = k
  · rwa [forKind_fits k f s hk]
  · rw [forKind_other k f s hk]
    exact raise_keepsStorage _ s

theorem transact_keepsStorage {f : State → State} {s t : State} (h : transact f s = .next t)
    (hf : KeepsStorage s (f s)) : KeepsStorage s t := by
  by_cases hs : s.fault = .none
  · rw [transact_running f s hs] at h
    cases h
    exact hf
  · rw [transact_halted f s hs] at h
    cases h
    exact .refl s

theorem exec_keepsStorage {i : Instr} {s t : State} (hf : s.fault = .none) (hi : i ≠ .rst)
    (h : exec i s = .next t) : KeepsStorage s t := by
  cases i with
  | nop => exact transact_keepsStorage (f := fun u => u) h (.refl s)
  | wrSwp d =>
    refine transact_keepsStorage h (forKind_keepsStorage .square s ?_)
    exact .of_eq (by simp) (by simp) (by simp) (by simp)
  | wrWon d | wrWlen d | wrWvol d | wrw idx d | rdw idx =>
    exact transact_keepsStorage h (forKind_keepsStorage .wave s (.of_eq rfl rfl rfl rfl))
  | wrLen d | wrEnv d =>
    exact transact_keepsStorage h (forKind_keepsStorage .square s (.of_eq rfl rfl rfl rfl))
  | wrFlo d => exact transact_keepsStorage (f := fun u => recomputePeriod (setReg 3 d u)) h (.of_eq rfl rfl rfl rfl)
  | wrFhi d => exact transact_keepsStorage h (writeFhi_keepsStorage d s)
  | rd sel => exact transact_keepsStorage h (readReg_keepsStorage sel s)
  | envclk =>
    dsimp only [exec, execEnvclk] at h
    refine transact_keepsStorage h ?_
    split
    · exact tickEnvelope_keepsStorage s
    · exact .refl s
  | cyc => exact transact_keepsStorage h (oneCycle_keepsStorage s)
  | emu n => exact transact_keepsStorage h (startEmu_keepsStorage _ s)
  | fdivn n => exact transact_keepsStorage h (batch_keepsStorage _ s)
  | ins amp c => exact transact_keepsStorage h (insertEvent_keepsStorage c (insAmp_fits s amp))
  | upd ref =>
    cases (execUpd_eq ref s hf).symm.trans h
    exact (updateQueue_keepsStorage ref s).release
  | rnd frames fs ref =>
    cases (execRnd_eq frames fs ref s hf).symm.trans h
    exact (beginRender_keepsStorage _ fs ref s).release
  | oclr frames => exact transact_keepsStorage h (clearFrames_keepsStorage _ s)
  | rst => exact absurd rfl hi

/-- `RST` empties the ring, frees the lock and leaves parameters and output buffer as they are (70 R340). -/
theorem resetBlock_keepsStorage (s : State) : KeepsStorage s (resetBlock s) :=
  ⟨rfl, fun hw => ⟨rfl, hw.2⟩, fun hs => ⟨rfl, hs.2⟩, fun _ => rfl⟩

theorem takeTurn_keepsStorage (s : State) : KeepsStorage s (takeTurn s) :=
  .of_eq (by simp) (by simp) (by simp) (by simp)

theorem setPort_keepsStorage (a : Agent) (ws : List Word) (s : State) : KeepsStorage s (setPort a ws s) :=
  .of_eq (by simp) (by simp) (by simp) (by simp)

theorem dropCommand_keepsStorage (a : Agent) (s : State) : KeepsStorage s (dropCommand a s) :=
  setPort_keepsStorage a _ s

theorem step_keepsStorage {s t : State} (h : step s = .next t) : KeepsStorage s t := by
  refine (takeTurn_keepsStorage s).trans ?_
  rcases step_cases h with rfl | ⟨_, rfl⟩ | ⟨_, _, rfl⟩ | ⟨_, _, rfl⟩ | ⟨e, _, _, _, rfl⟩ | ⟨r, _, _, _, rfl⟩ |
    ⟨i, rest, hf, _, _, hi, _, _, hx⟩ | ⟨_, rfl⟩ | ⟨_, _, rfl⟩
  · exact .refl _
  · exact dropCommand_keepsStorage _ _
  · exact .of_eq rfl rfl rfl rfl
  · exact .of_eq rfl rfl rfl rfl
  · exact emuCycle_keepsStorage e _
  · exact renderStep_keepsStorage r _
  · exact (setPort_keepsStorage _ rest _).trans (exec_keepsStorage (by simpa using hf) hi hx)
  · exact (dropCommand_keepsStorage _ _).trans (raise_keepsStorage _ _)
  · exact (dropCommand_keepsStorage _ _).trans (resetBlock_keepsStorage _)

/-- Settles O54: every way a step can go is a composition of operations that keep all four. -/
theorem stepKeepsStorageLockAndParameters : Obligations.StepKeepsStorageLockAndParameters := by
  intro s t h
  obtain ⟨hcfg, hwidth, hstorage, hlock⟩ := step_keepsStorage h
  exact ⟨hcfg, hwidth, hstorage, hlock⟩

end Sys2Proof.Machine
end

section
/-! PROOF. Cyclic cursors and the places of the live records (00_scope.md R15, R19; 40 R135). -/

namespace Sys2Proof.Machine

/-! ### Distances -/

@[simp] theorem cycDist_self (m a : Nat) : cycDist m a a = 0 := by
  simp [cycDist]

/-- Going `dist(a, b)` on from `a` ends at `b`. -/
theorem add_cycDist_mod {m a b : Nat} (ha : a < m) (hb : b < m) : (a + cycDist m a b) % m = b := by
  rw [cycDist_cases m a b ha hb]
  split
  · rw [Nat.add_sub_cancel' (by assumption), Nat.mod_eq_of_lt hb]
  · rw [show a + (b + m - a) = b + m by omega, Nat.add_mod_right, Nat.mod_eq_of_lt hb]

theorem cycDist_injective {m a b c : Nat} (ha : a < m) (hb : b < m) (hc : c < m)
    (h : cycDist m a b = cycDist m a c) : b = c := by
  rw [← add_cycDist_mod ha hb, h, add_cycDist_mod ha hc]

theorem cycDist_cycInc_right {m a b : Nat} (ha : a < m) (hb : b < m) (h : cycInc m b ≠ a) :
    cycDist m a (cycInc m b) = cycDist m a b + 1 := by
  have hlt := cycInc_lt m b (by omega)
  rw [cycDist_cases m a _ ha hlt, cycDist_cases m a b ha hb]
  rw [cycInc_cases m b hb] at h ⊢
  split_ifs at h ⊢ <;> omega

theorem cycDist_cycInc_left {m a b : Nat} (ha : a < m) (hb : b < m) (h : a ≠ b) :
    cycDist m (cycInc m a) b + 1 = cycDist m a b := by
  have hlt := cycInc_lt m a (by omega)
  rw [cycDist_cases m _ b hlt hb, cycDist_cases m a b ha hb, cycInc_cases m a ha]
  split_ifs <;> omega

/-- One place less ends right before `b`. -/
theorem add_cycDist_pred_mod {m a b n : Nat} (ha : a < m) (hb : b < m) (h : n + 1 = cycDist m a b) :
    (a + n) % m = cycDec m b := by
  rw [cycDec_cases m b hb]
  rw [cycDist_cases m a b ha hb] at h
  split_ifs at h ⊢
  · omega
  · rw [Nat.mod_eq_of_lt (by omega)]; omega
  · rw [Nat.mod_eq_of_lt (by omega)]; omega
  · rw [show a + n = (b - 1) + m by omega, Nat.add_mod_right, Nat.mod_eq_of_lt (by omega)]

@[simp] theorem dist_self (s : State) (a : Nat) : s.dist a a = 0 := cycDist_self _ a

/-! ### Live slots -/

theorem liveSlot_zero {s : State} (h : s.CursorsInRange) : s.liveSlot 0 = s.oldest :=
  Nat.mod_eq_of_lt h.oldest_lt

theorem liveSlot_dist {s : State} (h : s.CursorsInRange) {c : Nat} (hc : c < s.cfg.ringN) :
    s.liveSlot (s.dist s.oldest c) = c :=
  add_cycDist_mod h.oldest_lt hc

theorem liveSlot_live {s : State} (h : s.CursorsInRange) : s.liveSlot s.live = s.newest :=
  liveSlot_dist h h.newest_lt

theorem liveSlot_pred_live {s : State} (h : s.CursorsInRange) {j : Nat} (hj : j + 1 = s.live) :
    s.liveSlot j = s.prev s.newest :=
  add_cycDist_pred_mod h.oldest_lt h.newest_lt hj

theorem liveSlot_injective (s : State) {j k : Nat} (hj : j < s.cfg.ringN) (hk : k < s.cfg.ringN)
    (h : s.liveSlot j = s.liveSlot k) : j = k := by
  have hmod : j % s.cfg.ringN = k % s.cfg.ringN := Nat.ModEq.add_left_cancel' s.oldest h
  rwa [Nat.mod_eq_of_lt hj, Nat.mod_eq_of_lt hk] at hmod

theorem liveSlot_succ (s : State) (j : Nat) :
    State.liveSlot { s with oldest := s.next s.oldest } j = s.liveSlot (j + 1) := by
  simp only [State.liveSlot, State.next, cycInc, Nat.mod_add_mod]
  congr 1
  omega

theorem live_lt (s : State) : s.live < s.cfg.ringN := dist_lt s _ _

/-- Nothing is live exactly where the two cursors meet. -/
theorem live_eq_zero_iff {s : State} (h : s.CursorsInRange) : s.live = 0 ↔ s.oldest = s.newest := by
  refine ⟨fun h0 => cycDist_injective h.oldest_lt h.oldest_lt h.newest_lt ?_, fun he => ?_⟩
  · rw [cycDist_self]
    exact h0.symm
  · rw [State.live, he, dist_self]

theorem live_pos_iff {s : State} (h : s.CursorsInRange) : 0 < s.live ↔ s.oldest ≠ s.newest := by
  rw [Nat.pos_iff_ne_zero, ne_eq, live_eq_zero_iff h]

end Sys2Proof.Machine
end

section
/-! PROOF. What an operation may do to the ring: keep its invariants, and read live slots only (10_state.md R55). -/

namespace Sys2Proof.Machine

/-! ### The part of the state that the ring's invariants speak of, besides the parameters -/

/-- The ring's content and cursors, `wr_valid`, and the reset count on which the free value of a dead slot depends. -/
structure RingView where
  ring    : Memory Record
  newest  : Nat
  oldest  : Nat
  pwe     : Nat
  wrValid : Bool
  resets  : Nat

def State.ringView (s : State) : RingView := ⟨s.ring, s.newest, s.oldest, s.pwe, s.wrValid, s.env.resets⟩

section

variable {s t : State} (hc : t.cfg = s.cfg) (hv : t.ringView = s.ringView)
include hc hv

theorem live_congr : t.live = s.live := by
  obtain ⟨_, hnewest, holdest, _, _, _⟩ := RingView.mk.inj hv
  simp only [State.live, State.dist, hc, holdest, hnewest]

theorem liveSlot_congr : t.liveSlot = s.liveSlot := by
  obtain ⟨_, _, holdest, _, _, _⟩ := RingView.mk.inj hv
  funext j
  simp only [State.liveSlot, hc, holdest]

theorem liveRecord_congr : t.liveRecord = s.liveRecord := by
  obtain ⟨hring, _, _, _, _, hresets⟩ := RingView.mk.inj hv
  funext j
  simp only [State.liveRecord, liveSlot_congr hc hv]
  exact slot_congr t s _ hring hresets (by rw [hc])

/-- The invariants depend on the parameters and the view alone. -/
theorem ringInv_congr (h : s.RingInv) : t.RingInv := by
  have hlive := live_congr hc hv
  have hslot := liveSlot_congr hc hv
  have hrecord := liveRecord_congr hc hv
  obtain ⟨hring, hnewest, holdest, hpwe, hvalid, _⟩ := RingView.mk.inj hv
  obtain ⟨⟨hn, ho, hp⟩, hwindow, hcapacity, hwritten, hlast, habut, hdistinct, hkept⟩ := h
  refine ⟨⟨?_, ?_, ?_⟩, ?_, ?_, ?_, ?_, ?_, ?_, ?_⟩
  · rwa [hc, hnewest]
  · rwa [hc, holdest]
  · rwa [hc, hpwe]
  · simpa only [State.dist, hc, holdest, hnewest, hpwe] using hwindow
  · rwa [hc, hlive]
  · rwa [hlive, hslot, hring]
  · rwa [hlive, hrecord]
  · rwa [hlive, hrecord]
  · rwa [hlive, hrecord]
  · rwa [hvalid, holdest, hnewest]

end

/-- Two runs that agree but for dead slots still do so after a step that hands ring and cursors on. -/
theorem AgreeButDead.congr {s t s' t' : State} (h : AgreeButDead s t) (hc : s'.cfg = s.cfg)
    (hv : s'.ringView = s.ringView) (ht : t' = { s' with ring := t.ring }) : AgreeButDead s' t' := by
  have htc : t'.cfg = t.cfg := by rw [ht, h.rest]; exact hc
  have htv : t'.ringView = t.ringView := by
    rw [ht, h.rest]
    exact congrArg (fun v : RingView => { v with ring := t.ring }) hv
  refine ⟨by rw [ht], fun j hj => ?_⟩
  rw [live_congr hc hv] at hj
  rw [liveRecord_congr hc hv, liveRecord_congr htc htv]
  exact h.live j hj

/-! ### Operations that do not touch the ring -/

/-- The operation hands ring and cursors on and does not look at the ring's content: it does the same on any content.
For an update of other fields all three hold by definition, and `{}` proves them. -/
structure RingBlind (f : State → State) : Prop where
  cfg      : ∀ s, (f s).cfg = s.cfg := by intros; rfl
  view     : ∀ s, (f s).ringView = s.ringView := by intros; rfl
  withRing : ∀ s (m : Memory Record), f { s with ring := m } = { f s with ring := m } := by intros; rfl

namespace RingBlind

variable {f g : State → State}

theorem id : RingBlind fun s => s := {}

theorem comp (hg : RingBlind g) (hf : RingBlind f) : RingBlind (fun s => g (f s)) :=
  ⟨fun s => (hg.cfg _).trans (hf.cfg s), fun s => (hg.view _).trans (hf.view s), fun s m => by
    rw [hf.withRing, hg.withRing]⟩

/-- A choice that does not look at the ring's content. -/
theorem choose {γ : Type} {F : γ → State → State} (c : State → γ) (hc : ∀ s m, c { s with ring := m } = c s)
    (hF : ∀ x, RingBlind (F x)) : RingBlind (fun s => F (c s) s) :=
  ⟨fun s => (hF _).cfg s, fun s => (hF _).view s, fun s m => by rw [hc, (hF _).withRing]⟩

theorem ite {p : State → Prop} [DecidablePred p] (hf : RingBlind f) (hg : RingBlind g)
    (hp : ∀ s m, p { s with ring := m } ↔ p s := by intros; rfl) : RingBlind (fun s => if p s then f s else g s) := by
  have h := choose (F := fun b => if b = true then f else g) (fun s => decide (p s))
    (fun s m => decide_eq_decide.2 (hp s m)) (fun b => by cases b; exacts [hg, hf])
  simpa only [decide_eq_true_eq, ite_apply] using h

end RingBlind

/-! ### Operations that respect the ring -/

/-- The two runs read the same in a live slot. -/
theorem AgreeButDead.slot_liveSlot {s t : State} (h : AgreeButDead s t) {j : Nat} (hj : j < s.live) :
    t.slot (s.liveSlot j) = s.slot (s.liveSlot j) := by
  have hslot : t.liveSlot j = s.liveSlot j := by rw [h.rest]; rfl
  have hrec := h.live j hj
  rw [State.liveRecord, State.liveRecord, hslot] at hrec
  exact hrec.symm

/-- The operation keeps the ring's invariants and reads no dead slot (10_state.md R55 item 3). -/
structure RingSafe (f : State → State) : Prop where
  inv  : ∀ s, s.RingInv → (f s).RingInv
  dead : ∀ s t, s.RingInv → AgreeButDead s t → AgreeButDead (f s) (f t)

theorem RingBlind.safe {f : State → State} (h : RingBlind f) : RingSafe f where
  inv s hs := ringInv_congr (h.cfg s) (h.view s) hs
  dead s t _ hst := hst.congr (h.cfg s) (h.view s) (by rw [← h.withRing, ← hst.rest])

namespace RingSafe

variable {f g : State → State}

theorem id : RingSafe fun s => s := ⟨fun _ h => h, fun _ _ _ h => h⟩

theorem comp (hg : RingSafe g) (hf : RingSafe f) : RingSafe (fun s => g (f s)) :=
  ⟨fun s hs => hg.inv _ (hf.inv s hs), fun s t hs hst => hg.dead _ _ (hf.inv s hs) (hf.dead s t hs hst)⟩

/-- A choice that does not look at the ring's content between operations that respect the ring. -/
theorem choose {γ : Type} {F : γ → State → State} (c : State → γ) (hc : ∀ s m, c { s with ring := m } = c s)
    (hF : ∀ x, RingSafe (F x)) : RingSafe (fun s => F (c s) s) where
  inv s := (hF _).inv s
  dead s t hs hst := by
    have ht : c t = c s := by rw [hst.rest]; exact hc s _
    rw [ht]
    exact (hF _).dead s t hs hst

theorem ite {p : State → Prop} [DecidablePred p] (hf : RingSafe f) (hg : RingSafe g)
    (hp : ∀ s m, p { s with ring := m } ↔ p s := by intros; rfl) : RingSafe (fun s => if p s then f s else g s) := by
  have h := choose (F := fun b => if b = true then f else g) (fun s => decide (p s))
    (fun s m => decide_eq_decide.2 (hp s m)) (fun b => by cases b; exacts [hg, hf])
  simpa only [decide_eq_true_eq, ite_apply] using h

end RingSafe

end Sys2Proof.Machine
end

section
/-! PROOF. The ring after an insertion (43_event_ring.md R204): its live records, its invariants, two runs of it. -/

namespace Sys2Proof.Machine

/-! ### The state an insertion leaves that is neither coalesced nor faulty (43 R204) -/

/-- The last record closed at the stamp, the new one open behind it. -/
def appended (amp : Int) (c : Cycle) (s : State) : State := markWritten (appendRecord amp c (closeLast c s))

theorem appended_eq (amp : Int) (c : Cycle) (s : State) :
    markWritten (appendRecord amp c (closeLast c s)) = appended amp c s := rfl

theorem closeLast_frame (c : Cycle) (s : State) : closeLast c s = { s with ring := (closeLast c s).ring } := by
  unfold closeLast
  split <;> rfl

theorem appended_frame (amp : Int) (c : Cycle) (s : State) :
    appended amp c s = { s with ring := (appended amp c s).ring, newest := s.next s.newest, wrValid := true } := by
  unfold appended
  rw [closeLast_frame]
  rfl

theorem raise_frame (x : FaultCode) (s : State) : raise x s = { s with fault := (raise x s).fault } := by
  unfold raise
  split <;> rfl

/-- All an insertion can write: the ring's three fields of domain E, the fault and the lock. -/
theorem insertEvent_frame (amp : Int) (c : Cycle) (s : State) :
    insertEvent amp c s = { s with
      ring := (insertEvent amp c s).ring, newest := (insertEvent amp c s).newest,
      wrValid := (insertEvent amp c s).wrValid, fault := (insertEvent amp c s).fault, lock := .free } := by
  rw [insertEvent_eq]
  rcases insertRecord_cases amp c s with ⟨_, e⟩ | ⟨_, _, e⟩ | ⟨_, _, _, e⟩ | ⟨_, _, _, _, e⟩ | ⟨_, _, _, _, e⟩
    <;> rw [e]
  · rw [raise_frame]
  · rw [raise_frame]
  · rw [raise_frame]
  · rw [appended_eq, appended_frame]

theorem read_appended (amp : Int) (c : Cycle) (s : State) (i : Nat) :
    Memory.read (appended amp c s).ring i =
      if i = s.newest then some ⟨c, 0, true, amp⟩
      else if s.wrValid = true ∧ i = s.prev s.newest then some { s.lastRecord with stop := c, isOpen := false }
      else Memory.read s.ring i := by
  have hring : (appended amp c s).ring = Memory.write (closeLast c s).ring s.newest ⟨c, 0, true, amp⟩ := by
    unfold appended
    rw [closeLast_frame]
    rfl
  rw [hring, Memory.read_write]
  by_cases hi : i = s.newest
  · simp [hi]
  · cases hv : s.wrValid <;> simp [hi, hv, closeLast, closeSlot, Memory.read_write, State.lastRecord]

theorem slot_appended (amp : Int) (c : Cycle) (s : State) (i : Nat) :
    (appended amp c s).slot i =
      if i = s.newest then ⟨c, 0, true, amp⟩
      else if s.wrValid = true ∧ i = s.prev s.newest then { s.lastRecord with stop := c, isOpen := false }
      else s.slot i := by
  have hdead : (appended amp c s).deadSlot i = s.deadSlot i := by rw [appended_frame]; rfl
  simp only [State.slot, read_appended, hdead]
  split_ifs <;> rfl

section

variable {s : State} (hr : s.CursorsInRange) (hkept : s.wrValid = true ↔ s.oldest ≠ s.newest)

include hr

theorem lastRecord_eq {j : Nat} (hj : j + 1 = s.live) : s.lastRecord = s.liveRecord j := by
  rw [State.liveRecord, liveSlot_pred_live hr hj]
  rfl

theorem live_appended (hfull : s.ringFull = false) (amp : Int) (c : Cycle) :
    (appended amp c s).live = s.live + 1 := by
  rw [appended_frame]
  exact cycDist_cycInc_right hr.oldest_lt hr.newest_lt (of_decide_eq_false hfull)

include hkept

/-- The records that are live after an insertion, in terms of those before. -/
theorem liveRecord_appended (amp : Int) (c : Cycle) {j : Nat} (hj : j ≤ s.live) :
    (appended amp c s).liveRecord j =
      if j = s.live then ⟨c, 0, true, amp⟩
      else if j + 1 = s.live then { s.liveRecord j with stop := c, isOpen := false }
      else s.liveRecord j := by
  have hslot : (appended amp c s).liveSlot j = s.liveSlot j := by rw [appended_frame]; rfl
  have hlt := live_lt s
  have hnewest : s.liveSlot j = s.newest ↔ j = s.live := by
    rw [← liveSlot_live hr]
    exact ⟨liveSlot_injective s (by omega) hlt, fun h => by rw [h]⟩
  have hprev : j ≠ s.live → ((s.wrValid = true ∧ s.liveSlot j = s.prev s.newest) ↔ j + 1 = s.live) := by
    intro hne
    have hpred : s.live - 1 + 1 = s.live := by omega
    rw [hkept, ← live_pos_iff hr, ← liveSlot_pred_live hr hpred]
    refine ⟨fun ⟨_, h⟩ => ?_, fun h => ⟨by omega, by congr 1; omega⟩⟩
    have := liveSlot_injective s (by omega) (by omega) h
    omega
  simp only [State.liveRecord, hslot, slot_appended, hnewest]
  split_ifs with h1 h2 h3 h3
  · rfl
  · rw [State.lastRecord, h2.2]
  · exact absurd ((hprev h1).1 h2) h3
  · exact absurd ((hprev h1).2 h3) h2
  · rfl

/-- Two records that follow each other after an insertion: the last one and the new one, or two that did so before, the
first of them as it was and the second with its start and amplitude. -/
theorem appended_consecutive (amp : Int) (c : Cycle) {j : Nat} (hj : j < s.live) :
    (j + 1 = s.live ∧ (appended amp c s).liveRecord j = { s.lastRecord with stop := c, isOpen := false } ∧
      (appended amp c s).liveRecord (j + 1) = ⟨c, 0, true, amp⟩) ∨
    (j + 1 < s.live ∧ (appended amp c s).liveRecord j = s.liveRecord j ∧
      ((appended amp c s).liveRecord (j + 1)).start = (s.liveRecord (j + 1)).start ∧
      ((appended amp c s).liveRecord (j + 1)).amp = (s.liveRecord (j + 1)).amp) := by
  rw [liveRecord_appended hr hkept amp c hj, liveRecord_appended hr hkept amp c hj.le, if_neg hj.ne]
  by_cases hlast : j + 1 = s.live
  · exact .inl ⟨hlast, by rw [if_pos hlast, lastRecord_eq hr hlast], if_pos hlast⟩
  · rw [if_neg hlast, if_neg hlast]
    refine .inr ⟨by omega, rfl, ?_⟩
    split <;> exact ⟨rfl, rfl⟩

end

theorem appended_ringInv {s : State} {amp : Int} {c : Cycle} (h : s.RingInv) (hamp : s.coalesces amp = false)
    (horder : s.outOfOrder c = false) (hfull : s.ringFull = false) : (appended amp c s).RingInv := by
  obtain ⟨hr, hwindow, hcapacity, hwritten, hlast, habut, hdistinct, hkept⟩ := h
  have hframe := appended_frame amp c s
  have hlive : (appended amp c s).live = s.live + 1 := live_appended hr hfull amp c
  have hslot : (appended amp c s).liveSlot = s.liveSlot := by rw [hframe]; rfl
  have hvalid : ∀ j, j < s.live → s.wrValid = true := fun j hj => hkept.2 ((live_pos_iff hr).1 (by omega))
  refine ⟨⟨?_, ?_, ?_⟩, ?_, ?_, fun j hj => ?_, fun j hj => ?_, fun j hj => ?_, fun j hj => ?_, ?_⟩
  · rw [hframe]; exact next_lt s _
  · rw [hframe]; exact hr.oldest_lt
  · rw [hframe]; exact hr.pwe_lt
  · have hnewest : (appended amp c s).dist (appended amp c s).oldest (appended amp c s).newest = s.live + 1 := hlive
    rw [hnewest, hframe]
    exact Nat.le_succ_of_le hwindow
  · have := live_lt (appended amp c s)
    omega
  · rw [hslot, read_appended]
    split_ifs with h1 h2
    · rfl
    · rfl
    · refine hwritten j (Nat.lt_of_le_of_ne (by omega) fun hj' => h1 ?_)
      rw [hj', liveSlot_live hr]
  · rw [liveRecord_appended hr hkept amp c (by omega), hlive]
    split_ifs with h1 h2
    · simp [h1]
    · simp [h1]
    · rw [hlast j (by omega)]
      simp [h1, h2]
  · have hv := hvalid j (by omega)
    rcases appended_consecutive hr hkept amp c (j := j) (by omega) with ⟨_, h1, h2⟩ | ⟨hj', h1, h2, _⟩
    · rw [h1, h2]
      exact ⟨rfl, by simpa [State.outOfOrder, hv] using horder⟩
    · rw [h1, h2]
      exact habut j hj'
  · have hv := hvalid j (by omega)
    rcases appended_consecutive hr hkept amp c (j := j) (by omega) with ⟨_, h1, h2⟩ | ⟨hj', h1, _, h2⟩
    · rw [h1, h2]
      simpa [State.coalesces, hv] using hamp
    · rw [h1, h2]
      exact hdistinct j hj'
  · rw [hframe]
    exact iff_of_true rfl (Ne.symm (of_decide_eq_false hfull))

/-! ### Two runs that agree but for dead slots -/

theorem AgreeButDead.lastRecord_eq {s t : State} (h : AgreeButDead s t) (hs : s.RingInv)
    (hv : s.wrValid = true) : t.lastRecord = s.lastRecord := by
  have hpos := (live_pos_iff hs.range).2 (hs.lastKept.1 hv)
  have hprev : s.prev s.newest = s.liveSlot (s.live - 1) :=
    (liveSlot_pred_live hs.range (Nat.sub_add_cancel hpos)).symm
  have hrec := (h.live (s.live - 1) (by omega)).symm
  rw [h.rest] at hrec ⊢
  simp only [State.lastRecord, State.prev] at hprev ⊢
  rw [hprev]
  exact hrec

theorem AgreeButDead.appended {s t : State} (h : AgreeButDead s t) (hs : s.RingInv) (hfull : s.ringFull = false)
    (amp : Int) (c : Cycle) : AgreeButDead (appended amp c s) (appended amp c t) := by
  have hr : t.CursorsInRange := by rw [h.rest]; exact ⟨hs.range.newest_lt, hs.range.oldest_lt, hs.range.pwe_lt⟩
  have hkept : t.wrValid = true ↔ t.oldest ≠ t.newest := by rw [h.rest]; exact hs.lastKept
  have hlive : t.live = s.live := by rw [h.rest]; rfl
  constructor
  · rw [appended_frame amp c t, appended_frame amp c s, h.rest]
    rfl
  · intro j hj
    rw [live_appended hs.range hfull] at hj
    rw [liveRecord_appended hs.range hs.lastKept amp c (by omega), liveRecord_appended hr hkept amp c (by omega), hlive]
    split_ifs with h1 h2
    · rfl
    · rw [h.live j (by omega)]
    · exact h.live j (by omega)

end Sys2Proof.Machine
end

section
/-! PROOF. Insertion and retirement as operations that respect the ring (43_event_ring.md R204, R212, R215). -/

namespace Sys2Proof.Machine

/-! ### Faults and insertions -/

theorem raise_ringBlind (x : FaultCode) : RingBlind (raise x) :=
  .ite {} .id

theorem insertRecord_ringSafe (amp : Int) (c : Cycle) : RingSafe (insertRecord amp c) where
  inv s hs := by
    rcases insertRecord_cases amp c s with ⟨_, e⟩ | ⟨_, _, e⟩ | ⟨_, _, _, e⟩ | ⟨_, _, _, _, e⟩ |
      ⟨_, hamp, horder, hfull, e⟩ <;> rw [e]
    · exact (raise_ringBlind _).safe.inv s hs
    · exact hs
    · exact (raise_ringBlind _).safe.inv s hs
    · exact (raise_ringBlind _).safe.inv s hs
    · rw [appended_eq]
      exact appended_ringInv hs hamp horder hfull
  dead s t hs hst := by
    have hvalid : t.wrValid = s.wrValid := by rw [hst.rest]
    have hlast : s.wrValid = true → t.lastRecord = s.lastRecord := hst.lastRecord_eq hs
    have hamp : t.coalesces amp = s.coalesces amp := by
      cases hv : s.wrValid <;> simp [State.coalesces, hvalid, hv, hlast]
    have horder : t.outOfOrder c = s.outOfOrder c := by
      cases hv : s.wrValid <;> simp [State.outOfOrder, hvalid, hv, hlast]
    have hfull : t.ringFull = s.ringFull := by rw [hst.rest]; rfl
    simp only [insertRecord, hamp, horder, hfull, appended_eq]
    split_ifs with _ _ _ hf
    · exact (raise_ringBlind _).safe.dead s t hs hst
    · exact hst
    · exact (raise_ringBlind _).safe.dead s t hs hst
    · exact (raise_ringBlind _).safe.dead s t hs hst
    · exact hst.appended hs (by simpa using hf) amp c

/-! ### Retiring the oldest record (43 R212) -/

/-- What one turn of the loop of `UPD` does to a consumed record. -/
def retireOne (s : State) : State := { s with oldest := s.next s.oldest }

theorem retire_succ (ref : Cycle) (fuel : Nat) (s : State) :
    retire ref (fuel + 1) s =
      if s.oldest ≠ s.newest ∧ s.consumed ref = true then retire ref fuel (retireOne s) else s := by
  rw [retire]
  by_cases hne : s.oldest = s.newest
  · simp [hne]
  · simp [hne, retireOne]

theorem liveRecord_retireOne (s : State) (j : Nat) : (retireOne s).liveRecord j = s.liveRecord (j + 1) := by
  rw [State.liveRecord, State.liveRecord, ← liveSlot_succ]
  rfl

theorem live_retireOne {s : State} (hr : s.CursorsInRange) (h : s.oldest ≠ s.newest) :
    (retireOne s).live + 1 = s.live :=
  cycDist_cycInc_left hr.oldest_lt hr.newest_lt h

/-- A consumed record is not the only one, since the last one is open and has no successor (43 R213). -/
theorem two_le_live_of_consumed {s : State} (hs : s.RingInv) {ref : Cycle} (hne : s.oldest ≠ s.newest)
    (hc : s.consumed ref = true) : 2 ≤ s.live := by
  have hpos := (live_pos_iff hs.range).2 hne
  by_contra hlt
  have h1 : 0 + 1 = s.live := by omega
  have hopen := hs.lastOpen 0 hpos
  have hnext : s.next s.oldest = s.newest := by
    rw [← liveSlot_live hs.range, ← h1]
    rfl
  simp only [State.liveRecord, liveSlot_zero hs.range, h1, decide_true] at hopen
  simp [State.consumed, hopen, hnext] at hc

theorem retireOne_ringInv {s : State} (hs : s.RingInv) (hpwe : s.pwe = s.newest) {ref : Cycle}
    (hne : s.oldest ≠ s.newest) (hc : s.consumed ref = true) : (retireOne s).RingInv := by
  have h2 := two_le_live_of_consumed hs hne hc
  obtain ⟨hr, hwindow, hcapacity, hwritten, hlast, habut, hdistinct, hkept⟩ := hs
  have hlive := live_retireOne hr hne
  have hr' : (retireOne s).CursorsInRange := ⟨hr.newest_lt, next_lt s _, hr.pwe_lt⟩
  refine ⟨hr', ?_, ?_, fun j hj => ?_, fun j hj => ?_, fun j hj => ?_, fun j hj => ?_, ?_⟩
  · simp only [retireOne, hpwe]
    exact le_refl _
  · exact Nat.le_sub_one_of_lt (live_lt _)
  · have := hwritten (j + 1) (by omega)
    rwa [← liveSlot_succ] at this
  · rw [liveRecord_retireOne, hlast (j + 1) (by omega)]
    exact decide_eq_decide.2 (by omega)
  · simpa only [liveRecord_retireOne] using habut (j + 1) (by omega)
  · simpa only [liveRecord_retireOne] using hdistinct (j + 1) (by omega)
  · exact iff_of_true (hkept.2 hne) ((live_pos_iff hr').1 (by omega))

theorem AgreeButDead.retireOne {s t : State} (h : AgreeButDead s t) (hs : s.RingInv) (hne : s.oldest ≠ s.newest) :
    AgreeButDead (retireOne s) (retireOne t) where
  rest := by
    rw [h.rest]
    rfl
  live j hj := by
    rw [liveRecord_retireOne, liveRecord_retireOne]
    have := live_retireOne hs.range hne
    exact h.live (j + 1) (by omega)

/-- Whether the oldest record is consumed depends on live records only (43 R211). -/
theorem AgreeButDead.consumed_eq {s t : State} (h : AgreeButDead s t) (hs : s.RingInv) (ref : Cycle)
    (hne : s.oldest ≠ s.newest) : t.consumed ref = s.consumed ref := by
  have hpos := (live_pos_iff hs.range).2 hne
  have hfirst : t.slot s.oldest = s.slot s.oldest := by
    rw [← liveSlot_zero hs.range]
    exact h.slot_liveSlot hpos
  have hsecond : s.next s.oldest ≠ s.newest → t.slot (s.next s.oldest) = s.slot (s.next s.oldest) := by
    intro hnext
    have h1 : s.live ≠ 1 := fun h1 => hnext (by rw [← liveSlot_live hs.range, h1]; rfl)
    exact h.slot_liveSlot (j := 1) (by omega)
  have hold : t.oldest = s.oldest := by rw [h.rest]
  have hnew : t.newest = s.newest := by rw [h.rest]
  have hnext : t.next s.oldest = s.next s.oldest := by rw [h.rest]; rfl
  simp only [State.consumed, hold, hnew, hnext, hfirst]
  by_cases hl : s.next s.oldest = s.newest
  · simp [hl]
  · rw [hsecond hl]

/-! ### The loop of `UPD`, run with the snapshot already taken -/

theorem retire_ringInv (ref : Cycle) (fuel : Nat) {s : State} (hs : s.RingInv) (hpwe : s.pwe = s.newest) :
    (retire ref fuel s).RingInv := by
  induction fuel generalizing s with
  | zero => exact hs
  | succ n ih =>
    rw [retire_succ]
    split_ifs with h
    · exact ih (retireOne_ringInv hs hpwe h.1 h.2) hpwe
    · exact hs

theorem AgreeButDead.retire {s t : State} (h : AgreeButDead s t) (hs : s.RingInv) (hpwe : s.pwe = s.newest)
    (ref : Cycle) (fuel : Nat) : AgreeButDead (retire ref fuel s) (retire ref fuel t) := by
  induction fuel generalizing s t with
  | zero => exact h
  | succ n ih =>
    have hold : t.oldest = s.oldest := by rw [h.rest]
    have hnew : t.newest = s.newest := by rw [h.rest]
    rw [retire_succ, retire_succ, hold, hnew]
    by_cases hne : s.oldest = s.newest
    · simpa [hne] using h
    · rw [h.consumed_eq hs ref hne]
      split_ifs with hc
      · exact ih (h.retireOne hs hne) (retireOne_ringInv hs hpwe hne hc.2) hpwe
      · exact h

/-- The loop does not look at the window's end. -/
theorem retire_withPwe (ref : Cycle) (fuel : Nat) (s : State) (p : Nat) :
    retire ref fuel { s with pwe := p } = { retire ref fuel s with pwe := p } := by
  induction fuel generalizing s with
  | zero => rfl
  | succ n ih =>
    rw [retire_succ, retire_succ]
    have hcond : State.consumed { s with pwe := p } ref = s.consumed ref := rfl
    rw [hcond]
    split_ifs
    · exact ih (Machine.retireOne s)
    · rfl

theorem updateQueue_eq (ref : Cycle) (s : State) :
    updateQueue ref s = retire ref (s.dist s.oldest s.newest) { s with pwe := s.newest } := by
  rw [retire_withPwe, updateQueue, retire_only_oldest]

/-- The snapshot (43 R214): the window is all that is live. -/
theorem snapshot_ringSafe : RingSafe fun s => { s with pwe := s.newest } where
  inv s hs := by
    obtain ⟨⟨hn, ho, _⟩, _, hcapacity, hwritten, hlast, habut, hdistinct, hkept⟩ := hs
    exact ⟨⟨hn, ho, hn⟩, le_refl _, hcapacity, hwritten, hlast, habut, hdistinct, hkept⟩
  dead s t _ hst := ⟨by rw [hst.rest], hst.live⟩

theorem updateQueue_ringSafe (ref : Cycle) : RingSafe (updateQueue ref) where
  inv s hs := by
    rw [updateQueue_eq]
    exact retire_ringInv ref _ (snapshot_ringSafe.inv s hs) rfl
  dead s t hs hst := by
    have hdist : t.dist t.oldest t.newest = s.dist s.oldest s.newest := by rw [hst.rest]; rfl
    rw [updateQueue_eq, updateQueue_eq, hdist]
    exact (snapshot_ringSafe.dead s t hs hst).retire (snapshot_ringSafe.inv s hs) rfl ref _

end Sys2Proof.Machine
end

section
/-! PROOF. The commands' operations respect the ring: W's touch it by insertions only, R's by retirement only. -/

namespace Sys2Proof.Machine

/-! ### Registers, envelope, frequency -/

theorem setReg_ringBlind (i : Fin 5) (d : Byte) : RingBlind (setReg i d) := {}

theorem setFired_ringBlind (f : Bool) : RingBlind (setFired f) := {}

theorem reloadEnvelope_ringBlind : RingBlind reloadEnvelope := {}

theorem recomputePeriod_ringBlind : RingBlind recomputePeriod := {}

theorem setWram_ringBlind (i : Fin 16) (d : Byte) : RingBlind (setWram i d) := {}

theorem readWram_ringBlind (i : BitVec 4) : RingBlind fun s => respond s.wram[i.toNat] s := {}

theorem forKind_ringBlind (k : ChKind) {f : State → State} (hf : RingBlind f) : RingBlind (forKind k f) :=
  .ite hf (raise_ringBlind _)

theorem markSweep_ringBlind (d : Byte) : RingBlind (markSweep d) :=
  .ite .id {}

theorem markLength_ringBlind (d : Byte) : RingBlind (markLength d) :=
  .ite {} .id

theorem readReg_ringBlind (sel : BitVec 3) : RingBlind (readReg sel) := by
  unfold readReg
  split
  · exact {}
  · exact raise_ringBlind _

/-- An operation by kind does not look at the ring where its two parts do not. -/
theorem RingBlind.byKind {f : ChKind → State → State} (hf : ∀ k, RingBlind (f k)) :
    RingBlind fun s => f s.cfg.kind s :=
  .choose (fun s => s.cfg.kind) (fun _ _ => rfl) hf

theorem trigger_ringBlind : RingBlind trigger := by
  refine .byKind (f := fun k s => match k with
    | .square => reloadEnvelope { s with timer := s.period }
    | .wave => { s with timer := s.period }) fun k => ?_
  cases k <;> exact {}

theorem writeFhi_ringBlind (d : Byte) : RingBlind (writeFhi d) :=
  have hmark : RingBlind fun s => markLength d (recomputePeriod (setReg 4 d s)) :=
    (markLength_ringBlind d).comp (recomputePeriod_ringBlind.comp (setReg_ringBlind 4 d))
  .ite (trigger_ringBlind.comp hmark) hmark

/-- The envelope's divider advances by one (40 R131). -/
def countEnvelope (s : State) : State :=
  { s with envCnt := BitVec.ofNat 3 ((s.envCnt.toNat + 1) % s.envPeriod.toNat) }

/-- An envelope tick without `MODCNT`'s fault, which the guard excludes (42 R185, 40 R133). -/
theorem tickEnvelope_eq (s : State) :
    tickEnvelope s =
      if s.envPeriod = 0 then s
      else if (s.envCnt.toNat + 1) % s.envPeriod.toNat = 0 then stepVolume (countEnvelope s) else countEnvelope s := by
  unfold tickEnvelope
  split_ifs with h0 h1
  · rfl
  all_goals
    have hp : s.envPeriod.toNat ≠ 0 := fun h => h0 (BitVec.eq_of_toNat_eq h)
    simp [modcntIncrement_ok _ _ _ hp, h1, countEnvelope]

theorem tickEnvelope_ringBlind : RingBlind tickEnvelope := by
  rw [funext tickEnvelope_eq]
  exact .ite .id (.ite {} {})

/-! ### Cycles -/

theorem advanceStep_ringBlind : RingBlind advanceStep := by
  refine .byKind (f := fun k s => match k with
    | .square => { s with dstep := s.dstep + 1 }
    | .wave => { s with wstep := s.wstep + 1 }) fun k => ?_
  cases k <;> exact {}

/-- Taking and releasing the lock is no matter of the ring. -/
theorem locked_ringSafe (a : Lock) {f : State → State} (hf : RingSafe f) : RingSafe (locked a f) :=
  have hlock : ∀ l, RingBlind fun s => { s with lock := l } := fun _ => {}
  (hlock .free).safe.comp (hf.comp (hlock a).safe)

theorem insertEvent_ringSafe (amp : Int) (c : Cycle) : RingSafe (insertEvent amp c) :=
  locked_ringSafe .w (insertRecord_ringSafe amp c)

theorem sourceAmp_withRing (s : State) (m : Memory Record) : State.sourceAmp { s with ring := m } = s.sourceAmp := by
  unfold State.sourceAmp
  rfl

theorem underflow_ringSafe : RingSafe underflow := by
  have hinsert : RingSafe fun s => insertEvent s.sourceAmp s.cyc s :=
    .choose (F := fun (x : Int × Cycle) s => insertEvent x.1 x.2 s) (fun s => (s.sourceAmp, s.cyc))
      (fun s m => congrArg (fun a => (a, s.cyc)) (sourceAmp_withRing s m))
      (fun x => insertEvent_ringSafe x.1 x.2)
  exact hinsert.comp advanceStep_ringBlind.safe

/-- The count and the timer after `n` cycles. -/
def elapse (n : Nat) (timer : BitVec 14) (s : State) : State := { advanceCyc n s with timer := timer }

theorem cycle_state (s : State) :
    (cycle s).state =
      if s.cycOverflows 1 = true then raise .cycOvf s
      else if (tick s.period s.timer).fired = true then underflow (elapse 1 (tick s.period s.timer).timer s)
      else elapse 1 (tick s.period s.timer).timer s := by
  unfold cycle
  split_ifs with h1 h2
  · rfl
  · simp only [h2, if_true]
    rfl
  · simp only [h2]
    rfl

theorem cycle_fired (s : State) :
    (cycle s).fired = (!s.cycOverflows 1 && (tick s.period s.timer).fired) := by
  rcases cycle_cases s with ⟨h, e⟩ | ⟨h, hf, e⟩ | ⟨h, hf, e⟩
  · simp [e, h]
  · simp [e, h, hf]
  · simp [e, h, hf]

theorem elapse_ringSafe (n : Nat) (ticked : BitVec 14 → BitVec 14 → TickResult) :
    RingSafe fun s => elapse n (ticked s.period s.timer).timer s :=
  RingBlind.safe {}

theorem cycle_ringSafe : RingSafe fun s => (cycle s).state := by
  rw [funext cycle_state]
  exact .ite (raise_ringBlind _).safe
    (.ite (underflow_ringSafe.comp (elapse_ringSafe 1 tick)) (elapse_ringSafe 1 tick))

/-- What follows the cycle may depend on whether it fired, which does not depend on the ring. -/
theorem afterCycle_ringSafe {F : Bool → State → State} (hF : ∀ b, RingBlind (F b)) :
    RingSafe fun s => F (cycle s).fired (cycle s).state :=
  .choose (F := fun b s => F b (cycle s).state) (fun s => (cycle s).fired)
    (fun s m => by rw [cycle_fired, cycle_fired]; rfl) fun b => (hF b).safe.comp cycle_ringSafe

theorem oneCycle_ringSafe : RingSafe oneCycle :=
  afterCycle_ringSafe (F := fun b u => if u.halted = true then u else setFired b u) fun b =>
    .ite .id (setFired_ringBlind b)

theorem emuCycle_ringSafe (e : EmuRun) : RingSafe (emuCycle e) :=
  afterCycle_ringSafe (F := fun b u =>
    if u.halted = true then { u with emu := none }
    else if e.left ≤ 1 then { setFired (e.any || b) u with emu := none }
    else { u with emu := some ⟨e.left - 1, e.any || b⟩ }) fun _ =>
    .ite {} (.ite {} {})

theorem startEmu_ringSafe (n : Nat) : RingSafe (startEmu n) :=
  .ite (setFired_ringBlind false).safe (emuCycle_ringSafe _)

theorem batch_ringSafe (n : Nat) : RingSafe (batch n) := by
  have helapse := elapse_ringSafe n fun p t => ticks p n ⟨t, false⟩
  have hend : RingBlind fun u => if u.halted = true then u else setFired true u :=
    .ite .id (setFired_ringBlind true)
  exact .ite (raise_ringBlind _).safe
    (.ite ((hend.safe.comp underflow_ringSafe).comp helapse)
      ((setFired_ringBlind false).safe.comp helapse))

/-! ### Agent R's commands -/

theorem setFrame_ringBlind (k : Nat) (v : Int) : RingBlind (setFrame k v) := {}

theorem clearFrames_ringBlind (frames : Nat) : RingBlind (clearFrames frames) := by
  induction frames with
  | zero => exact .id
  | succ k ih => exact (setFrame_ringBlind k 0).comp ih

theorem beginRender_ringSafe (frames : Nat) (fs : BitVec 32) (ref : Cycle) :
    RingSafe (beginRender frames fs ref) :=
  have hbegin : RingBlind fun s => { s with rc := s.oldest, render := some ⟨0, frames, fs, ref⟩ } := {}
  .ite (raise_ringBlind _).safe (hbegin.safe.comp (updateQueue_ringSafe ref))

end Sys2Proof.Machine
end

section
/-! PROOF. Every step keeps the invariants of the ring (10_state.md R55). -/

namespace Sys2Proof.Machine

/-! ### Outcomes -/

/-- A command or a turn that respects the ring, wherever it answers a next state. -/
structure TurnSafe (F : State → Host.Outcome State Fault Refusal) : Prop where
  inv  : ∀ s s', s.RingInv → F s = .next s' → s'.RingInv
  dead : ∀ s t s' t', s.RingInv → AgreeButDead s t → F s = .next s' → F t = .next t' → AgreeButDead s' t'

theorem RingSafe.turn {f : State → State} (hf : RingSafe f) : TurnSafe fun s => .next (f s) where
  inv s s' hs h := by
    cases h
    exact hf.inv s hs
  dead s t s' t' hs hst h h' := by
    cases h
    cases h'
    exact hf.dead s t hs hst

namespace TurnSafe

variable {F : State → Host.Outcome State Fault Refusal}

theorem comp {f : State → State} (hF : TurnSafe F) (hf : RingSafe f) : TurnSafe fun s => F (f s) where
  inv s s' hs h := hF.inv _ s' (hf.inv s hs) h
  dead s t s' t' hs hst h h' := hF.dead _ _ s' t' (hf.inv s hs) (hf.dead s t hs hst) h h'

theorem choose {γ : Type} {F : γ → State → Host.Outcome State Fault Refusal} (c : State → γ)
    (hc : ∀ s m, c { s with ring := m } = c s) (hF : ∀ x, TurnSafe (F x)) : TurnSafe fun s => F (c s) s where
  inv s := (hF _).inv s
  dead s t s' t' hs hst h h' := by
    have ht : c t = c s := by rw [hst.rest]; exact hc s _
    rw [ht] at h'
    exact (hF _).dead s t s' t' hs hst h h'

end TurnSafe

theorem transact_turnSafe {f : State → State} (hf : RingSafe f) : TurnSafe (transact f) :=
  (RingSafe.ite .id hf).turn

/-! ### Reset -/

/-- An empty ring meets its invariants vacuously. -/
theorem powerOn_ringInv (cfg : Params) (out : Memory Int) (env : Env) : (State.powerOn cfg out env).RingInv := by
  have hpos := ringN_pos cfg
  have hlive : (State.powerOn cfg out env).live = 0 := cycDist_self _ 0
  refine ⟨⟨hpos, hpos, hpos⟩, le_refl _, ?_, ?_, ?_, ?_, ?_, ?_⟩
  · rw [hlive]
    exact Nat.zero_le _
  all_goals simp [hlive]

theorem resetBlock_ringSafe : RingSafe resetBlock where
  inv s _ := powerOn_ringInv _ _ _
  dead s t _ hst := by
    have hreset : resetBlock t = resetBlock s := by rw [hst.rest]; rfl
    rw [hreset]
    exact ⟨rfl, fun _ _ => rfl⟩

/-! ### Commands -/

theorem execRst_turnSafe : TurnSafe execRst := by
  refine .choose (F := fun b s => if b = true then .fault .resetUnderWay else .next (resetBlock s))
    (fun s => s.underWay) (fun _ _ => rfl) fun b => ?_
  cases b
  · exact resetBlock_ringSafe.turn
  · exact ⟨fun _ _ _ h => by simp at h, fun _ _ _ _ _ _ h => by simp at h⟩

/-- Only `INS` and the counting commands insert, only `UPD` and `RND` retire; no other command looks at the ring. -/
theorem exec_turnSafe (i : Instr) : TurnSafe (exec i) := by
  cases i with
  | nop => exact transact_turnSafe .id
  | wrSwp d => exact transact_turnSafe (forKind_ringBlind _ ((markSweep_ringBlind d).comp (setReg_ringBlind 0 d))).safe
  | wrWon d | wrLen d | wrWlen d | wrWvol d =>
    exact transact_turnSafe (forKind_ringBlind _ (setReg_ringBlind _ d)).safe
  | wrEnv d => exact transact_turnSafe (forKind_ringBlind _ (reloadEnvelope_ringBlind.comp (setReg_ringBlind 2 d))).safe
  | wrFlo d => exact transact_turnSafe (recomputePeriod_ringBlind.comp (setReg_ringBlind 3 d)).safe
  | wrFhi d => exact transact_turnSafe (writeFhi_ringBlind d).safe
  | rd sel => exact transact_turnSafe (readReg_ringBlind sel).safe
  | envclk =>
    refine transact_turnSafe (RingBlind.safe (.byKind (f := fun k s => match k with
      | .square => tickEnvelope s
      | .wave => s) fun k => ?_))
    cases k
    · exact tickEnvelope_ringBlind
    · exact .id
  | cyc => exact transact_turnSafe oneCycle_ringSafe
  | emu n => exact transact_turnSafe (startEmu_ringSafe _)
  | fdivn n => exact transact_turnSafe (batch_ringSafe _)
  | ins amp c =>
    exact transact_turnSafe (.choose (F := fun a => insertEvent a c) (fun s => s.insAmp amp) (fun _ _ => rfl)
      fun a => insertEvent_ringSafe a c)
  | upd ref => exact transact_turnSafe (locked_ringSafe .r (updateQueue_ringSafe ref))
  | rnd frames fs ref => exact transact_turnSafe (locked_ringSafe .r (beginRender_ringSafe _ fs ref))
  | wrw idx d => exact transact_turnSafe (forKind_ringBlind _ (setWram_ringBlind _ d)).safe
  | rdw idx => exact transact_turnSafe (forKind_ringBlind _ (readWram_ringBlind idx)).safe
  | oclr frames => exact transact_turnSafe (clearFrames_ringBlind _).safe
  | rst => exact execRst_turnSafe

/-! ### Turns -/

theorem setPort_ringBlind (a : Agent) (ws : List Word) : RingBlind (setPort a ws) := by
  cases a <;> exact {}

theorem dropCommand_ringBlind (a : Agent) : RingBlind (dropCommand a) := by
  cases a <;> exact {}

theorem dropEmu_ringBlind : RingBlind fun s => { s with emu := none } := {}

theorem dropRender_ringBlind : RingBlind fun s => { s with render := none } := {}

theorem portWords_withRing (s : State) (m : Memory Record) (a : Agent) :
    State.portWords { s with ring := m } a = s.portWords a := by
  cases a <;> rfl

theorem takeTurn_ringBlind : RingBlind takeTurn := by
  refine .choose (F := fun sched s => match sched with
    | _ :: rest => { s with env := { s.env with sched := rest } }
    | [] => { s with env := { s.env with turn := s.env.turn + 1 } }) (fun s => s.env.sched) (fun _ _ => rfl) fun l => ?_
  cases l <;> exact {}

theorem startCommand_turnSafe (a : Agent) : TurnSafe (startCommand a) := by
  refine .choose (F := fun (x : List Word × ChKind) s => match x.1 with
    | [] => .next s
    | h :: ws => match decodeOn x.2 a (h :: ws) with
      | .ok (i, rest) => exec i (setPort a rest s)
      | .error _ => .next (raise .illegalCmd (dropCommand a s)))
    (fun s => (s.portWords a, s.cfg.kind)) (fun s m => by rw [portWords_withRing]) fun x => ?_
  obtain ⟨ws, k⟩ := x
  cases ws with
  | nil => exact RingSafe.id.turn
  | cons h ws =>
    cases hd : decodeOn k a (h :: ws) with
    | error e =>
      simp only [hd]
      exact ((raise_ringBlind _).safe.comp (dropCommand_ringBlind a).safe).turn
    | ok v =>
      simp only [hd]
      exact (exec_turnSafe v.1).comp (setPort_ringBlind a v.2).safe

theorem turnW_turnSafe : TurnSafe turnW := by
  refine .choose (F := fun (x : Bool × Option EmuRun) s => match x.1, x.2 with
    | true, some _ => .next { s with emu := none }
    | true, none => .next (dropCommand .w s)
    | false, some e => .next (emuCycle e s)
    | false, none => startCommand .w s) (fun s => (s.halted, s.emu)) (fun _ _ => rfl) fun x => ?_
  obtain ⟨_ | _, _ | e⟩ := x
  · exact startCommand_turnSafe .w
  · exact (emuCycle_ringSafe e).turn
  · exact (dropCommand_ringBlind .w).safe.turn
  · exact dropEmu_ringBlind.safe.turn

theorem turnHost_turnSafe : TurnSafe turnHost := by
  refine .choose (F := fun (x : List Word × Bool × Bool) s => match x.1 with
    | [] => .next s
    | h :: _ =>
      if h = 0xF000 then (if x.2.1 then .next s else execRst (dropCommand .host s))
      else if x.2.2 then .next (dropCommand .host s)
      else startCommand .host s) (fun s => (s.portWords .host, s.underWay, s.halted)) (fun _ _ => rfl) fun x => ?_
  obtain ⟨_ | ⟨h, ws⟩, u, b⟩ := x
  · exact RingSafe.id.turn
  · have hdrop := (dropCommand_ringBlind .host).safe
    by_cases hh : h = 0xF000
    · cases u
      · simpa only [if_pos hh, Bool.false_eq_true, if_false] using execRst_turnSafe.comp hdrop
      · simpa only [if_pos hh, if_true] using RingSafe.id.turn
    · cases b
      · simpa only [if_neg hh, Bool.false_eq_true, if_false] using startCommand_turnSafe .host
      · simpa only [if_neg hh, if_true] using hdrop.turn

/-- A frame step and the end of a render leave ring and cursors alone. -/
theorem renderStep_ringInv (r : RenderRun) {s : State} (hs : s.RingInv) : (renderStep r s).RingInv := by
  unfold renderStep
  split <;> exact ringInv_congr (s := s) rfl rfl hs

theorem turnR_ringInv {s s' : State} (hs : s.RingInv) (h : turnR s = .next s') : s'.RingInv := by
  rcases turnR_cases s with ⟨_, _, e⟩ | ⟨_, _, e⟩ | ⟨r, _, _, e⟩ | ⟨_, _, e⟩ <;> rw [e] at h
  · cases h
    exact dropRender_ringBlind.safe.inv s hs
  · cases h
    exact (dropCommand_ringBlind .r).safe.inv s hs
  · cases h
    exact renderStep_ringInv r hs
  · exact (startCommand_turnSafe .r).inv s s' hs h

/-- Settles O52: each agent's turn is composed of operations that keep the invariants of the ring. -/
theorem stepKeepsTheRingInvariants : Obligations.StepKeepsTheRingInvariants := by
  intro s t hs h
  have hs' := takeTurn_ringBlind.safe.inv s hs
  unfold step agentTurn at h
  split at h
  · exact turnW_turnSafe.inv _ t hs' h
  · exact turnR_ringInv hs' h
  · exact turnHost_turnSafe.inv _ t hs' h

end Sys2Proof.Machine
end

section
/-! PROOF. What W's operations do: they leave R's part of the state alone, keep the units' invariants and never lower the
count of cycles (10_state.md R30 to R35; 60_exceptions.md R321). -/

namespace Sys2Proof.Machine

/-! ### The two parts of the state -/

/-- What W leaves alone: domain A, the render under way and the ports of R and the host, with the parameters. -/
structure ReaderPart where
  cfg      : Params
  oldest   : Nat
  pwe      : Nat
  rc       : Nat
  samples  : Nat
  out      : Memory Int
  render   : Option RenderRun
  rPort    : List Word
  hostPort : List Word

def State.readerPart (s : State) : ReaderPart :=
  ⟨s.cfg, s.oldest, s.pwe, s.rc, s.samples, s.out, s.render, s.env.rPort, s.env.hostPort⟩

/-- What R leaves alone: domain E, the ring, the `EMU` under way, the ports of W and the host, the parameters. -/
structure WriterPart where
  cfg      : Params
  cyc      : Cycle
  reg      : Vector Byte 5
  period   : BitVec 14
  timer    : BitVec 14
  volume   : BitVec 4
  envCnt   : BitVec 3
  dstep    : BitVec 3
  wstep    : BitVec 5
  wram     : Vector Byte 16
  resp     : Byte
  fired    : Bool
  ni       : Markers
  newest   : Nat
  wrValid  : Bool
  ring     : Memory Record
  emu      : Option EmuRun
  wPort    : List Word
  hostPort : List Word

def State.writerPart (s : State) : WriterPart :=
  ⟨s.cfg, s.cyc, s.reg, s.period, s.timer, s.volume, s.envCnt, s.dstep, s.wstep, s.wram, s.resp, s.fired, s.ni,
    s.newest, s.wrValid, s.ring, s.emu, s.env.wPort, s.env.hostPort⟩

/-! ### Faults, kinds and halted blocks, for any relation between the state before and after -/

theorem forKind_rel {R : State → State → Prop} {k : ChKind} {f : State → State} {s : State}
    (hraise : R s (raise .illegalCmd s)) (hf : s.cfg.kind = k → R s (f s)) : R s (forKind k f s) := by
  by_cases hk : s.cfg.kind = k
  · rw [forKind_fits k f s hk]
    exact hf hk
  · rwa [forKind_other k f s hk]

theorem transact_rel {R : State → State → Prop} {f : State → State} {s t : State} (hrefl : R s s) (hf : R s (f s))
    (h : transact f s = .next t) : R s t := by
  by_cases hs : s.fault = .none
  · rw [transact_running f s hs] at h
    cases h
    exact hf
  · rw [transact_halted f s hs] at h
    cases h
    exact hrefl

/-! ### The units' part -/

/-- The units' state besides the registers' bytes, of which the invariants see the code and the envelope's period. -/
structure UnitPart where
  cfg       : Params
  cyc       : Cycle
  code      : BitVec 11
  period    : BitVec 14
  timer     : BitVec 14
  volume    : BitVec 4
  envCnt    : BitVec 3
  envPeriod : BitVec 3
  dstep     : BitVec 3
  wstep     : BitVec 5
  wram      : Vector Byte 16

def State.unitPart (s : State) : UnitPart :=
  ⟨s.cfg, s.cyc, s.code, s.period, s.timer, s.volume, s.envCnt, s.envPeriod, s.dstep, s.wstep, s.wram⟩

/-- The invariants of the units, kept, whatever else happens. -/
structure KeepsUnits (s t : State) : Prop where
  divider  : s.DividerInv → t.DividerInv
  envelope : s.EnvelopeInv → t.EnvelopeInv
  absent   : s.AbsentInv → t.AbsentInv

theorem KeepsUnits.of_eq {s t : State} (h : t.unitPart = s.unitPart) : KeepsUnits s t := by
  obtain ⟨hcfg, _, hcode, hperiod, htimer, hvolume, hcnt, henv, hdstep, hwstep, hwram⟩ := UnitPart.mk.inj h
  refine ⟨fun hd => ?_, fun he => ?_, fun ha => ?_⟩
  · simpa only [State.DividerInv, hcfg, hcode, hperiod, htimer] using hd
  · simpa only [State.EnvelopeInv, hcfg, hcnt, henv] using he
  · simpa only [State.AbsentInv, hcfg, hvolume, hcnt, hdstep, hwstep, hwram] using ha

/-- What every operation of W does, between its ports: R's part stays, the units' invariants are kept and the count of
cycles does not fall. -/
structure WriterEffect (s t : State) : Prop where
  reader : t.readerPart = s.readerPart
  units  : KeepsUnits s t
  cyc    : s.cyc.toInt ≤ t.cyc.toInt

namespace WriterEffect

variable {s t u : State}

theorem of_eq (hr : t.readerPart = s.readerPart) (hu : t.unitPart = s.unitPart) : WriterEffect s t :=
  ⟨hr, .of_eq hu, le_of_eq (congrArg (fun p => p.cyc.toInt) hu).symm⟩

theorem refl (s : State) : WriterEffect s s := .of_eq rfl rfl

theorem trans (h : WriterEffect s t) (h' : WriterEffect t u) : WriterEffect s u :=
  ⟨h'.reader.trans h.reader,
    ⟨h'.units.divider ∘ h.units.divider, h'.units.envelope ∘ h.units.envelope, h'.units.absent ∘ h.units.absent⟩,
    h.cyc.trans h'.cyc⟩

end WriterEffect

theorem raise_effect (x : FaultCode) (s : State) : WriterEffect s (raise x s) := by
  rw [raise_frame]
  exact .of_eq rfl rfl

/-! ### Cycles -/

/-- The period of a legal code is at most 8192 (41_frequency_divider.md R163). -/
theorem period_le (s : State) (h : s.DividerInv) : s.period.toNat ≤ 8192 := by
  obtain ⟨h0 | hp, _⟩ := h
  · rw [h0]
    decide
  · have hm : fdivMult s.cfg.kind ≤ 4 := by cases s.cfg.kind <;> decide
    calc s.period.toNat = (2048 - s.code.toNat) * fdivMult s.cfg.kind := hp
      _ ≤ 2048 * 4 := Nat.mul_le_mul (Nat.sub_le _ _) hm

theorem tick_timer_le (period timer : BitVec 14) :
    (tick period timer).timer.toNat ≤ max timer.toNat period.toNat := by
  rcases tick_cases period timer with ⟨_, e⟩ | ⟨_, _, e⟩ | ⟨_, h, e⟩ <;> rw [e]
  · exact le_max_left _ _
  · exact le_max_right _ _
  · refine le_trans ?_ (le_max_left _ _)
    show (timer - 1).toNat ≤ timer.toNat
    bv_omega

theorem ticks_timer_le (period : BitVec 14) (n : Nat) (r : TickResult) :
    (ticks period n r).timer.toNat ≤ max r.timer.toNat period.toNat := by
  induction n generalizing r with
  | zero => exact le_max_left _ _
  | succ n ih =>
    calc (ticks period (n + 1) r).timer.toNat
        ≤ max (tick period r.timer).timer.toNat period.toNat := ih ⟨_, _⟩
      _ ≤ max r.timer.toNat period.toNat := max_le (tick_timer_le period r.timer) (le_max_right _ _)

theorem advanceCyc_toInt {n : Nat} {s : State} (h : s.cycOverflows n = false) :
    (advanceCyc n s).cyc.toInt = s.cyc.toInt + n := by
  have hmin : -(2 ^ 63) ≤ s.cyc.toInt := BitVec.le_toInt s.cyc
  have hmax : s.cyc.toInt + n ≤ maxI64 := by simpa [State.cycOverflows] using h
  rw [advanceCyc_cyc, ← narrow_eq]
  refine narrow_of_fits (by decide) ((fits_iff 64 _).2 ?_)
  norm_num [maxI64] at hmax hmin ⊢
  omega

theorem elapse_effect {n : Nat} {timer : BitVec 14} {s : State} (h : s.cycOverflows n = false)
    (ht : timer.toNat ≤ max s.timer.toNat s.period.toNat) : WriterEffect s (elapse n timer s) where
  reader := rfl
  units := ⟨fun hd => ⟨hd.1, ht.trans (max_le hd.2 (period_le s hd))⟩, id, id⟩
  cyc := by
    have hcyc : (elapse n timer s).cyc.toInt = s.cyc.toInt + n := advanceCyc_toInt h
    omega

theorem advanceStep_effect (s : State) : WriterEffect s (advanceStep s) := by
  unfold advanceStep
  split <;> rename_i hk
  · exact ⟨rfl, ⟨id, id, fun ha => ⟨fun hw => absurd (hk.symm.trans hw) (by decide), ha.2⟩⟩, le_refl _⟩
  · exact ⟨rfl, ⟨id, id, fun ha => ⟨ha.1, fun hsq => absurd (hk.symm.trans hsq) (by decide)⟩⟩, le_refl _⟩

theorem insertEvent_effect (amp : Int) (c : Cycle) (s : State) : WriterEffect s (insertEvent amp c s) := by
  rw [insertEvent_frame]
  exact .of_eq rfl rfl

theorem underflow_effect (s : State) : WriterEffect s (underflow s) :=
  (advanceStep_effect s).trans (insertEvent_effect _ _ _)

theorem cycle_effect (s : State) : WriterEffect s (cycle s).state := by
  rw [cycle_state]
  have ht := tick_timer_le s.period s.timer
  split_ifs with h1
  · exact raise_effect _ s
  · exact (elapse_effect (by simpa using h1) ht).trans (underflow_effect _)
  · exact elapse_effect (by simpa using h1) ht

theorem oneCycle_effect (s : State) : WriterEffect s (oneCycle s) := by
  refine (cycle_effect s).trans ?_
  unfold oneCycle
  dsimp only
  split <;> exact .of_eq rfl rfl

theorem emuCycle_effect (e : EmuRun) (s : State) : WriterEffect s (emuCycle e s) := by
  refine (cycle_effect s).trans ?_
  unfold emuCycle
  dsimp only
  split_ifs <;> exact .of_eq rfl rfl

theorem startEmu_effect (n : Nat) (s : State) : WriterEffect s (startEmu n s) := by
  unfold startEmu
  split
  · exact .of_eq rfl rfl
  · exact emuCycle_effect _ s

theorem batch_effect (n : Nat) (s : State) : WriterEffect s (batch n s) := by
  have ht := ticks_timer_le s.period n ⟨s.timer, false⟩
  unfold batch
  dsimp only
  split_ifs with h1
  · exact raise_effect _ s
  · exact (elapse_effect (by simpa using h1) ht).trans (underflow_effect _)
  · exact ((elapse_effect (by simpa using h1) ht).trans (underflow_effect _)).trans (.of_eq rfl rfl)
  · exact (elapse_effect (by simpa using h1) ht).trans (.of_eq rfl rfl)

/-! ### Registers, envelope, frequency -/

/-- A register whose byte is neither a part of the code nor the envelope's. -/
theorem setReg_effect {i : Fin 5} (hi : i.val < 2) (d : Byte) (s : State) : WriterEffect s (setReg i d s) := by
  refine .of_eq rfl ?_
  have h2 : i.val ≠ 2 := by omega
  have h3 : i.val ≠ 3 := by omega
  have h4 : i.val ≠ 4 := by omega
  simp [State.unitPart, State.code, State.envPeriod, h2, h3, h4]

/-- `WVOL`: the byte means the envelope's period in a `SQUARE` instance only (10_state.md R43, R46). -/
theorem writeWvol_effect {s : State} (hk : s.cfg.kind = .wave) (d : Byte) : WriterEffect s (setReg 2 d s) where
  reader := rfl
  units := ⟨fun hd => by simpa [State.DividerInv, State.code] using hd,
    fun _ hsq => absurd (hk.symm.trans hsq) (by decide), id⟩
  cyc := le_refl _

/-- `ENV`: the reload restarts the envelope's divider (42 R182). -/
theorem writeEnv_effect {s : State} (hk : s.cfg.kind = .square) (d : Byte) :
    WriterEffect s (reloadEnvelope (setReg 2 d s)) where
  reader := rfl
  units := ⟨fun hd => by simpa [State.DividerInv, State.code] using hd, fun _ _ => .inl rfl,
    fun ha => ⟨fun hw => absurd (hk.symm.trans hw) (by decide), ha.2⟩⟩
  cyc := le_refl _

/-- `FLO` and `FHI`: the period is recomputed from the complete new code (41 R151). -/
theorem writeFrequency_effect {i : Fin 5} (hi : 2 < i.val) (d : Byte) (s : State) :
    WriterEffect s (recomputePeriod (setReg i d s)) where
  reader := rfl
  units := by
    have h2 : i.val ≠ 2 := by omega
    refine ⟨fun hd => ⟨.inr (periodOf_toNat _ _), hd.2⟩, fun he => ?_, id⟩
    simpa [State.EnvelopeInv, State.envPeriod, h2] using he
  cyc := le_refl _

theorem markSweep_effect (d : Byte) (s : State) : WriterEffect s (markSweep d s) := by
  unfold markSweep
  split <;> exact .of_eq rfl rfl

theorem markLength_effect (d : Byte) (s : State) : WriterEffect s (markLength d s) := by
  unfold markLength
  split <;> exact .of_eq rfl rfl

theorem trigger_effect (s : State) : WriterEffect s (trigger s) := by
  have hd : s.DividerInv → State.DividerInv { s with timer := s.period } := fun hd => ⟨hd.1, period_le s hd⟩
  unfold trigger
  dsimp only
  split <;> rename_i hk
  · exact ⟨rfl, ⟨hd, fun _ _ => .inl rfl, fun ha => ⟨fun hw => absurd (hk.symm.trans hw) (by decide), ha.2⟩⟩, le_refl _⟩
  · exact ⟨rfl, ⟨hd, id, id⟩, le_refl _⟩

theorem writeFhi_effect (d : Byte) (s : State) : WriterEffect s (writeFhi d s) := by
  have hmark : WriterEffect s (markLength d (recomputePeriod (setReg 4 d s))) :=
    (writeFrequency_effect (by decide) d s).trans (markLength_effect d _)
  unfold writeFhi
  dsimp only
  split
  · exact hmark.trans (trigger_effect _)
  · exact hmark

theorem countEnvelope_effect {s : State} (hk : s.cfg.kind = .square) (hp : s.envPeriod ≠ 0) :
    WriterEffect s (countEnvelope s) where
  reader := rfl
  units := by
    refine ⟨id, fun _ _ => .inr ?_, fun ha => ⟨fun hw => absurd (hk.symm.trans hw) (by decide), ha.2⟩⟩
    have hpos : 0 < s.envPeriod.toNat := Nat.pos_of_ne_zero fun h => hp (BitVec.eq_of_toNat_eq h)
    exact lt_of_le_of_lt (Nat.mod_le _ _) (Nat.mod_lt _ hpos)
  cyc := le_refl _

theorem stepVolume_effect {s : State} (hk : s.cfg.kind = .square) : WriterEffect s (stepVolume s) :=
  ⟨rfl, ⟨id, id, fun ha => ⟨fun hw => absurd (hk.symm.trans hw) (by decide), ha.2⟩⟩, le_refl _⟩

theorem tickEnvelope_effect {s : State} (hk : s.cfg.kind = .square) : WriterEffect s (tickEnvelope s) := by
  rw [tickEnvelope_eq]
  split_ifs with hp
  · exact .refl s
  · exact (countEnvelope_effect hk hp).trans (stepVolume_effect hk)
  · exact countEnvelope_effect hk hp

theorem setWram_effect {s : State} (hk : s.cfg.kind = .wave) (i : Fin 16) (d : Byte) :
    WriterEffect s (setWram i d s) :=
  ⟨rfl, ⟨id, id, fun ha => ⟨ha.1, fun hsq => absurd (hk.symm.trans hsq) (by decide)⟩⟩, le_refl _⟩

theorem readReg_effect (sel : BitVec 3) (s : State) : WriterEffect s (readReg sel s) := by
  unfold readReg
  split
  · exact .of_eq rfl rfl
  · exact raise_effect _ s

/-! ### W's commands -/

theorem exec_w_effect {i : Instr} {s t : State} (hw : Agent.w.owns i = true) (h : exec i s = .next t) :
    WriterEffect s t := by
  have hr := raise_effect .illegalCmd s
  cases i with
  | nop => exact transact_rel (f := fun u => u) (.refl s) (.refl s) h
  | wrSwp d =>
    refine transact_rel (.refl s) (forKind_rel hr fun _ => ?_) h
    exact (setReg_effect (i := 0) (by decide) d s).trans (markSweep_effect d _)
  | wrWon d | wrLen d | wrWlen d =>
    exact transact_rel (.refl s) (forKind_rel hr fun _ => setReg_effect (by decide) d s) h
  | wrEnv d => exact transact_rel (.refl s) (forKind_rel hr fun hk => writeEnv_effect hk d) h
  | wrWvol d => exact transact_rel (.refl s) (forKind_rel hr fun hk => writeWvol_effect hk d) h
  | wrFlo d =>
    have heffect : WriterEffect s (recomputePeriod (setReg 3 d s)) := writeFrequency_effect (by decide) d s
    exact transact_rel (f := fun u => recomputePeriod (setReg 3 d u)) (.refl s) heffect h
  | wrFhi d => exact transact_rel (.refl s) (writeFhi_effect d s) h
  | rd sel => exact transact_rel (.refl s) (readReg_effect sel s) h
  | envclk =>
    dsimp only [exec, execEnvclk] at h
    refine transact_rel (.refl s) ?_ h
    split
    · exact tickEnvelope_effect (by assumption)
    · exact .refl s
  | cyc => exact transact_rel (.refl s) (oneCycle_effect s) h
  | emu n => exact transact_rel (.refl s) (startEmu_effect _ s) h
  | fdivn n => exact transact_rel (.refl s) (batch_effect _ s) h
  | ins amp c => exact transact_rel (.refl s) (insertEvent_effect _ c s) h
  | wrw idx d => exact transact_rel (.refl s) (forKind_rel hr fun hk => setWram_effect hk _ d) h
  | rdw idx => exact transact_rel (.refl s) (forKind_rel hr fun _ => .of_eq rfl rfl) h
  | upd | rnd | oclr | rst => cases hw

end Sys2Proof.Machine
end

section
/-! PROOF. The two domains: neither agent writes the other's state (10_state.md R30; 60_exceptions.md R321). -/

namespace Sys2Proof.Machine

/-! ### R's operations leave W's part alone -/

theorem raise_writerPart (x : FaultCode) (s : State) : (raise x s).writerPart = s.writerPart := by
  rw [raise_frame]
  rfl

theorem updateQueue_writerPart (ref : Cycle) (s : State) : (updateQueue ref s).writerPart = s.writerPart := by
  rw [updateQueue_frame]
  rfl

theorem beginRender_writerPart (frames : Nat) (fs : BitVec 32) (ref : Cycle) (s : State) :
    (beginRender frames fs ref s).writerPart = s.writerPart := by
  unfold beginRender
  split
  · exact raise_writerPart _ s
  · exact updateQueue_writerPart ref s

theorem clearFrames_writerPart (frames : Nat) (s : State) : (clearFrames frames s).writerPart = s.writerPart := by
  rw [clearFrames_only_out]
  rfl

theorem renderStep_writerPart (r : RenderRun) (s : State) : (renderStep r s).writerPart = s.writerPart := by
  unfold renderStep
  split <;> rfl

theorem exec_r_writerPart {i : Instr} {s t : State} (hr : Agent.r.owns i = true) (h : exec i s = .next t) :
    t.writerPart = s.writerPart := by
  have rel {f : State → State} (hf : (f s).writerPart = s.writerPart) (h : transact f s = .next t) :=
    transact_rel (R := fun s t => t.writerPart = s.writerPart) rfl hf h
  cases i with
  | nop => exact rel (f := fun u => u) rfl h
  | upd ref => exact rel (updateQueue_writerPart ref { s with lock := .r }) h
  | rnd frames fs ref => exact rel (beginRender_writerPart _ fs ref { s with lock := .r }) h
  | oclr frames => exact rel (clearFrames_writerPart _ s) h
  | _ => cases hr

/-! ### Turns -/

theorem w_or_r_of_ne_host {a : Agent} (h : a ≠ .host) : a = .w ∨ a = .r := by
  cases a
  · exact .inl rfl
  · exact .inr rfl
  · exact absurd rfl h

theorem takeTurn_readerPart (s : State) : (takeTurn s).readerPart = s.readerPart := by
  unfold takeTurn
  split <;> rfl

theorem takeTurn_writerPart (s : State) : (takeTurn s).writerPart = s.writerPart := by
  unfold takeTurn
  split <;> rfl

theorem takeTurn_effect (s : State) : WriterEffect s (takeTurn s) := by
  refine .of_eq (takeTurn_readerPart s) ?_
  rw [takeTurn_frame]
  rfl

theorem setPort_w_effect (ws : List Word) (s : State) : WriterEffect s (setPort .w ws s) := .of_eq rfl rfl

/-- A turn of W. -/
theorem step_w_effect {s t : State} (ha : s.nextAgent = .w) (h : step s = .next t) : WriterEffect s t := by
  refine (takeTurn_effect s).trans ?_
  rcases step_cases h with rfl | ⟨_, rfl⟩ | ⟨_, _, rfl⟩ | ⟨hr, _⟩ | ⟨e, _, _, _, rfl⟩ | ⟨_, hr, _⟩ |
    ⟨i, rest, _, _, _, _, ho, _, hx⟩ | ⟨_, rfl⟩ | ⟨hr, _⟩ <;> rw [ha] at *
  · exact .refl _
  · exact setPort_w_effect _ _
  · exact .of_eq rfl rfl
  · cases hr
  · exact emuCycle_effect e _
  · cases hr
  · exact (setPort_w_effect rest _).trans (exec_w_effect ho hx)
  · exact (setPort_w_effect _ _).trans (raise_effect _ _)
  · cases hr

/-- A turn of R. -/
theorem step_r_writerPart {s t : State} (ha : s.nextAgent = .r) (h : step s = .next t) :
    t.writerPart = s.writerPart := by
  refine Eq.trans ?_ (takeTurn_writerPart s)
  rcases step_cases h with rfl | ⟨_, rfl⟩ | ⟨hw, _⟩ | ⟨_, _, rfl⟩ | ⟨_, hw, _⟩ | ⟨r, _, _, _, rfl⟩ |
    ⟨i, rest, _, _, _, _, ho, _, hx⟩ | ⟨_, rfl⟩ | ⟨hw, _⟩ <;> rw [ha] at *
  · rfl
  · cases hw
  · rfl
  · cases hw
  · exact renderStep_writerPart r _
  · exact (exec_r_writerPart ho hx).trans rfl
  · exact raise_writerPart _ _
  · cases hw

/-- Settles O57: a turn of either agent leaves the other's part of the state as it is. -/
theorem neitherAgentWritesTheOthersState : Obligations.NeitherAgentWritesTheOthersState := by
  intro s t h
  refine ⟨fun ha => ?_, fun ha => ?_⟩
  · obtain ⟨_, holdest, hpwe, hrc, hsamples, hout, hrender, hrport, hhost⟩ :=
      ReaderPart.mk.inj (step_w_effect ha h).reader
    exact ⟨holdest, hpwe, hrc, hsamples, hout, hrender, hrport, hhost⟩
  · obtain ⟨_, hcyc, hreg, hperiod, htimer, hvolume, hcnt, hdstep, hwstep, hwram, hresp, hfired, hni, hnewest, hvalid,
      hring, hemu, hwport, hhost⟩ := WriterPart.mk.inj (step_r_writerPart ha h)
    exact ⟨hcyc, hreg, hperiod, htimer, hvolume, hcnt, hdstep, hwstep, hwram, hresp, hfired, hni, hnewest, hvalid,
      hring, hemu, hwport, hhost⟩

end Sys2Proof.Machine
end

section
/-! PROOF. A render under way: its scan cursor stays inside its window (10_state.md R59; 44_renderer.md R236), and its scan
reads live slots only. -/

namespace Sys2Proof.Machine

/-! ### Cursors in the window -/

/-- A ring cursor in the window from `oldest` to `pwe`, its end included. -/
structure State.InWindow (s : State) (c : Nat) : Prop where
  lt   : c < s.cfg.ringN
  dist : s.dist s.oldest c ≤ s.dist s.oldest s.pwe

section

variable {s : State} (hr : s.CursorsInRange)
include hr

theorem oldest_inWindow : s.InWindow s.oldest :=
  ⟨hr.oldest_lt, by simp⟩

theorem State.InWindow.dist_lt {c : Nat} (hc : s.InWindow c) (hne : c ≠ s.pwe) :
    s.dist s.oldest c < s.dist s.oldest s.pwe :=
  lt_of_le_of_ne hc.dist fun h => hne (cycDist_injective hr.oldest_lt hc.lt hr.pwe_lt h)

theorem State.InWindow.next {c : Nat} (hc : s.InWindow c) (hne : c ≠ s.pwe) : s.InWindow (s.next c) := by
  refine ⟨next_lt s c, ?_⟩
  by_cases hwrap : s.next c = s.oldest
  · simp [hwrap]
  · have hstep : s.dist s.oldest (s.next c) = s.dist s.oldest c + 1 :=
      cycDist_cycInc_right hr.oldest_lt hc.lt hwrap
    have := hc.dist_lt hr hne
    omega

end

theorem scan_succ (s : State) (p : Int) (fuel rc : Nat) :
    scan s p (fuel + 1) rc =
      if rc = s.pwe ∨ p < (s.slot rc).start.toInt then ⟨rc, 0⟩
      else if (s.slot rc).isOpen = true ∨ p < (s.slot rc).stop.toInt then ⟨rc, s.sample (s.slot rc)⟩
      else scan s p fuel (s.next rc) := by
  rw [scan]
  by_cases h1 : rc = s.pwe <;> by_cases h2 : p < (s.slot rc).start.toInt <;> simp [h1, h2]

theorem scan_inWindow {s : State} (hr : s.CursorsInRange) (p : Int) (fuel : Nat) {rc : Nat} (hc : s.InWindow rc) :
    s.InWindow (scan s p fuel rc).rc := by
  induction fuel generalizing rc with
  | zero => exact hc
  | succ n ih =>
    rw [scan_succ]
    split_ifs with h1 h2
    · exact hc
    · exact hc
    · exact ih (hc.next hr fun h => h1 (.inl h))

/-- What is scanned is live. -/
theorem AgreeButDead.scan_eq {s t : State} (h : AgreeButDead s t) (hs : s.RingInv) (p : Int) (fuel : Nat) {rc : Nat}
    (hc : s.InWindow rc) : scan t p fuel rc = scan s p fuel rc := by
  induction fuel generalizing rc with
  | zero => rfl
  | succ n ih =>
    have hpwe : t.pwe = s.pwe := by rw [h.rest]
    have hnext : t.next rc = s.next rc := by rw [h.rest]; rfl
    have hsample : t.sample = s.sample := by rw [h.rest]; rfl
    rw [scan_succ, scan_succ, hpwe, hnext, hsample]
    by_cases hend : rc = s.pwe
    · simp [hend]
    · have hlive : s.dist s.oldest rc < s.live := lt_of_lt_of_le (hc.dist_lt hs.range hend) hs.window
      have hslot : t.slot rc = s.slot rc := by
        rw [← liveSlot_dist hs.range hc.lt]
        exact h.slot_liveSlot hlive
      rw [hslot, ih (hc.next hs.range hend)]

/-! ### The invariant of a render -/

/-- The render's invariant is about R's part of the state. -/
theorem renderInv_congr {s t : State} (h : t.readerPart = s.readerPart) (hs : s.RenderInv) : t.RenderInv := by
  obtain ⟨hcfg, holdest, hpwe, hrc, _, _, hrender, _, _⟩ := ReaderPart.mk.inj h
  simpa only [State.RenderInv, State.dist, hcfg, holdest, hpwe, hrc, hrender] using hs

/-- With no render under way there is nothing to say. -/
theorem renderInv_of_none {s : State} (h : s.render = none) : s.RenderInv := fun r hr => by
  rw [h] at hr
  cases hr

/-- A frame step stays in the window and goes one frame on, the end step ends the render. -/
theorem renderStep_renderInv {r : RenderRun} {s : State} (hs : s.RingInv) (hri : s.RenderInv)
    (hr : s.render = some r) : (renderStep r s).RenderInv := by
  obtain ⟨hfs, hk, hlt, hdist⟩ := hri r hr
  unfold renderStep
  split
  · intro r' hr'
    cases hr'
    have hwin := scan_inWindow hs.range (framePos s.cfg.cpuHz r.fs r.ref r.k) (s.dist s.rc s.pwe) ⟨hlt, hdist⟩
    exact ⟨hfs, by assumption, hwin.lt, hwin.dist⟩
  · exact renderInv_of_none rfl

/-- The begin step latches a legal rate and puts the cursor at `oldest` (44 R233, R241). -/
theorem beginRender_renderInv {frames : Nat} {fs : BitVec 32} {ref : Cycle} {s : State} (hs : s.RingInv)
    (hri : s.RenderInv) : (beginRender frames fs ref s).RenderInv := by
  unfold beginRender
  split
  · exact renderInv_congr (by rw [raise_frame]; rfl) hri
  · rename_i hbad
    intro r hr
    cases hr
    have hwin := oldest_inWindow ((updateQueue_ringSafe ref).inv s hs).range
    refine ⟨fun (h0 : fs = 0) => hbad (by simp [State.badRender, h0]), Nat.zero_le _, hwin.lt, hwin.dist⟩

theorem exec_r_renderInv {i : Instr} {s t : State} (hs : s.RingInv) (hnone : s.render = none)
    (hr : Agent.r.owns i = true) (h : exec i s = .next t) : t.RenderInv := by
  have hri := renderInv_of_none hnone
  have rel {f : State → State} := transact_rel (R := fun _ t => t.RenderInv) (f := f) (s := s) (t := t) hri
  cases i with
  | nop => exact rel (f := fun u => u) hri h
  | upd ref =>
    refine rel (renderInv_of_none ?_) h
    unfold locked
    rw [updateQueue_frame]
    exact hnone
  | rnd frames fs ref =>
    have hs' : State.RingInv { s with lock := .r } := ringInv_congr (s := s) rfl rfl hs
    have hri' : State.RenderInv { s with lock := .r } := hri
    exact rel (beginRender_renderInv (s := { s with lock := .r }) hs' hri') h
  | oclr frames =>
    refine rel (renderInv_of_none ?_) h
    rw [clearFrames_only_out]
    exact hnone
  | _ => cases hr

/-- No port holds anything of a render. -/
theorem setPort_renderInv (a : Agent) (ws : List Word) {s : State} (h : s.RenderInv) : (setPort a ws s).RenderInv := by
  cases a <;> exact h

/-- Settles O53: W leaves all it speaks of alone, R begins a render at `oldest` and scans up to the window's end. -/
theorem stepKeepsTheRenderInvariant : Obligations.StepKeepsTheRenderInvariant := by
  intro s t hs hri h
  have hs' := takeTurn_ringBlind.safe.inv s hs
  have hri' := renderInv_congr (takeTurn_readerPart s) hri
  by_cases hw : s.nextAgent = .w
  · exact renderInv_congr (step_w_effect hw h).reader hri
  rcases step_cases h with rfl | ⟨_, rfl⟩ | ⟨hw', _⟩ | ⟨_, _, rfl⟩ | ⟨_, hw', _⟩ | ⟨r, _, _, hr, rfl⟩ |
    ⟨i, rest, _, hhost, hfree, _, ho, _, hx⟩ | ⟨_, rfl⟩ | ⟨_, _, rfl⟩
  · exact hri'
  · exact setPort_renderInv _ _ hri'
  · exact absurd hw' hw
  · exact renderInv_of_none rfl
  · exact absurd hw' hw
  · exact renderStep_renderInv hs' hri' (by simpa using hr)
  · have ha : s.nextAgent = .r := (w_or_r_of_ne_host hhost).resolve_left hw
    rw [ha] at hfree ho hx
    have hnone : (setPort .r rest (takeTurn s)).render = none := (takeTurn_render s).trans hfree
    exact exec_r_renderInv ((setPort_ringBlind .r rest).safe.inv _ hs') hnone ho hx
  · have hdrop : (dropCommand s.nextAgent (takeTurn s)).RenderInv := setPort_renderInv _ _ hri'
    refine renderInv_congr ?_ hdrop
    rw [raise_frame]
    rfl
  · exact renderInv_of_none rfl

end Sys2Proof.Machine
end

section
/-! PROOF. The content of dead slots has no effect (10_state.md R55 item 3). -/

namespace Sys2Proof.Machine

/-- A frame depends on the ring through its scan alone, which reads live slots. -/
theorem AgreeButDead.renderFrame {s t : State} (h : AgreeButDead s t) (hs : s.RingInv) (hwin : s.InWindow s.rc)
    (r : RenderRun) : AgreeButDead (renderFrame r s) (renderFrame r t) := by
  have hscan := h.scan_eq hs (framePos s.cfg.cpuHz r.fs r.ref r.k) (s.dist s.rc s.pwe) hwin
  refine h.congr rfl rfl ?_
  rw [h.rest] at hscan ⊢
  simp only [Machine.renderFrame, ← hscan]
  rfl

theorem AgreeButDead.renderStep {s t : State} (h : AgreeButDead s t) (hs : s.RingInv) (hwin : s.InWindow s.rc)
    (r : RenderRun) : AgreeButDead (renderStep r s) (renderStep r t) := by
  have hend : RingBlind (renderEnd r) := {}
  unfold Machine.renderStep
  split
  · exact h.renderFrame hs hwin r
  · exact hend.safe.dead s t hs h

theorem turnR_dead {s t s' t' : State} (hs : s.RingInv) (hri : s.RenderInv) (hst : AgreeButDead s t)
    (h : turnR s = .next s') (h' : turnR t = .next t') : AgreeButDead s' t' := by
  have hhalted : t.halted = s.halted := by rw [hst.rest]; rfl
  have hrender : t.render = s.render := by rw [hst.rest]
  unfold turnR at h h'
  rw [hhalted, hrender] at h'
  cases hh : s.halted <;> cases hr : s.render <;> simp only [hh, hr] at h h'
  case false.none => exact (startCommand_turnSafe .r).dead s t s' t' hs hst h h'
  case false.some r =>
    cases h
    cases h'
    obtain ⟨_, _, hlt, hdist⟩ := hri r hr
    exact hst.renderStep hs ⟨hlt, hdist⟩ r
  case true.none =>
    cases h
    cases h'
    exact (dropCommand_ringBlind .r).safe.dead s t hs hst
  case true.some =>
    cases h
    cases h'
    exact dropRender_ringBlind.safe.dead s t hs hst

/-- Settles O60: each agent's turn reads live slots only, a render's scan because its cursor is in the window. -/
theorem deadSlotsAreNeverRead : Obligations.DeadSlotsAreNeverRead := by
  intro s t s' t' hs hri hst h h'
  have hagent : t.nextAgent = s.nextAgent := by rw [hst.rest]; rfl
  have hs' := takeTurn_ringBlind.safe.inv s hs
  have hst' := takeTurn_ringBlind.safe.dead s t hs hst
  unfold step agentTurn at h h'
  rw [hagent] at h'
  cases ha : s.nextAgent <;> simp only [ha] at h h'
  · exact turnW_turnSafe.dead _ _ s' t' hs' hst' h h'
  · exact turnR_dead hs' (renderInv_congr (takeTurn_readerPart s) hri) hst' h h'
  · exact turnHost_turnSafe.dead _ _ s' t' hs' hst' h h'

end Sys2Proof.Machine
end

section
/-! PROOF. The units and the cycle count under every step (10_state.md R31 to R38; 40 R134). -/

namespace Sys2Proof.Machine

/-! ### Turns of the host and of R -/

/-- What a turn of the host does: nothing, a command dropped, an illegal command raised, or the reset. -/
theorem step_host_cases {s t : State} (ha : s.nextAgent = .host) (h : step s = .next t) :
    t = takeTurn s ∨ t = dropCommand .host (takeTurn s) ∨ t = raise .illegalCmd (dropCommand .host (takeTurn s)) ∨
      (s.startsCommand .rst ∧ t = resetBlock (dropCommand .host (takeTurn s))) := by
  rcases step_cases h with rfl | ⟨_, rfl⟩ | ⟨hw, _⟩ | ⟨hr, _⟩ | ⟨_, hw, _⟩ | ⟨_, hr, _⟩ | ⟨_, _, _, hne, _⟩ | ⟨_, rfl⟩ |
    ⟨_, hrst, rfl⟩
  · exact .inl rfl
  · exact .inr (.inl (by rw [ha]))
  · exact absurd (ha.symm.trans hw) (by decide)
  · exact absurd (ha.symm.trans hr) (by decide)
  · exact absurd (ha.symm.trans hw) (by decide)
  · exact absurd (ha.symm.trans hr) (by decide)
  · exact absurd ha hne
  · exact .inr (.inr (.inl (by rw [ha])))
  · exact .inr (.inr (.inr ⟨hrst, rfl⟩))

/-- W's part holds all of the units. -/
theorem unitPart_of_writerPart {s t : State} (h : t.writerPart = s.writerPart) : t.unitPart = s.unitPart := by
  obtain ⟨hcfg, hcyc, hreg, hperiod, htimer, hvolume, hcnt, hdstep, hwstep, hwram, _, _, _, _, _, _, _, _, _⟩ :=
    WriterPart.mk.inj h
  simp only [State.unitPart, State.code, State.envPeriod, hcfg, hcyc, hreg, hperiod, htimer, hvolume, hcnt, hdstep,
    hwstep, hwram]

theorem takeTurn_unitPart (s : State) : (takeTurn s).unitPart = s.unitPart :=
  unitPart_of_writerPart (takeTurn_writerPart s)

/-- Any turn but a reset keeps the count from falling and the units' invariants. -/
theorem step_units {s t : State} (h : step s = .next t) :
    KeepsUnits s t ∧ s.cyc.toInt ≤ t.cyc.toInt ∨
      s.startsCommand .rst ∧ t = resetBlock (dropCommand .host (takeTurn s)) := by
  have of_eq (hu : t.unitPart = s.unitPart) : KeepsUnits s t ∧ s.cyc.toInt ≤ t.cyc.toInt :=
    ⟨.of_eq hu, le_of_eq (congrArg (fun p => p.cyc.toInt) hu).symm⟩
  cases ha : s.nextAgent
  · exact .inl ⟨(step_w_effect ha h).units, (step_w_effect ha h).cyc⟩
  · exact .inl (of_eq (unitPart_of_writerPart (step_r_writerPart ha h)))
  · rcases step_host_cases ha h with rfl | rfl | rfl | hrst
    · exact .inl (of_eq (takeTurn_unitPart s))
    · exact .inl (of_eq (takeTurn_unitPart s))
    · refine .inl (of_eq (Eq.trans ?_ (takeTurn_unitPart s)))
      rw [raise_frame]
      rfl
    · exact .inr hrst

/-! ### Reset -/

section

variable (cfg : Params) (out : Memory Int) (env : Env)

theorem powerOn_dividerInv : (State.powerOn cfg out env).DividerInv := ⟨.inl rfl, Nat.zero_le _⟩

theorem powerOn_envelopeInv : (State.powerOn cfg out env).EnvelopeInv := fun _ => .inl rfl

theorem powerOn_absentInv : (State.powerOn cfg out env).AbsentInv := ⟨fun _ => ⟨rfl, rfl, rfl⟩, fun _ => ⟨rfl, rfl⟩⟩

theorem powerOn_cycInv : (State.powerOn cfg out env).CycInv := le_refl _

end

/-- Settles O55: W's operations keep the units' invariants, R's and the host's leave the units alone or reset them. -/
theorem stepKeepsTheUnitInvariants : Obligations.StepKeepsTheUnitInvariants := by
  intro s t h
  rcases step_units h with ⟨⟨hdivider, henvelope, habsent⟩, _⟩ | ⟨_, rfl⟩
  · exact ⟨hdivider, henvelope, habsent⟩
  · exact ⟨fun _ => powerOn_dividerInv _ _ _, fun _ => powerOn_envelopeInv _ _ _, fun _ => powerOn_absentInv _ _ _⟩

/-! ### Which commands count cycles (40 R134) -/

theorem readReg_cyc (sel : BitVec 3) (s : State) : (readReg sel s).cyc = s.cyc := by
  unfold readReg
  split <;> simp

theorem tickEnvelope_cyc (s : State) : (tickEnvelope s).cyc = s.cyc := by
  rw [tickEnvelope_eq]
  split_ifs <;> rfl

@[simp] theorem trigger_cyc (s : State) : (trigger s).cyc = s.cyc := by
  unfold trigger
  dsimp only
  split <;> rfl

theorem writeFhi_cyc (d : Byte) (s : State) : (writeFhi d s).cyc = s.cyc := by
  unfold writeFhi
  dsimp only
  split <;> simp

theorem insertEvent_cyc (amp : Int) (c : Cycle) (s : State) : (insertEvent amp c s).cyc = s.cyc := by
  rw [insertEvent_frame]

/-- The commands that count. -/
def countsCycles (i : Instr) : Prop := i = .cyc ∨ (∃ n, i = .emu n) ∨ (∃ n, i = .fdivn n) ∨ i = .rst

theorem exec_cyc {i : Instr} {s t : State} (hw : Agent.w.owns i = true) (hi : ¬ countsCycles i)
    (h : exec i s = .next t) : t.cyc = s.cyc := by
  have rel {f : State → State} := transact_rel (R := fun s t => t.cyc = s.cyc) (f := f) (s := s) (t := t) rfl
  have kind {k : ChKind} {f : State → State} (hf : (f s).cyc = s.cyc) : (forKind k f s).cyc = s.cyc :=
    forKind_rel (R := fun s t => t.cyc = s.cyc) (raise_cyc _ s) fun _ => hf
  cases i with
  | nop => exact rel (f := fun u => u) rfl h
  | wrSwp d => exact rel (kind (by simp)) h
  | wrWon d | wrLen d | wrWlen d | wrEnv d | wrWvol d | wrw idx d | rdw idx => exact rel (kind rfl) h
  | wrFlo d => exact rel (f := fun u => recomputePeriod (setReg 3 d u)) rfl h
  | wrFhi d => exact rel (writeFhi_cyc d s) h
  | rd sel => exact rel (readReg_cyc sel s) h
  | envclk =>
    dsimp only [exec, execEnvclk] at h
    refine rel ?_ h
    split
    · exact tickEnvelope_cyc s
    · rfl
  | ins amp c => exact rel (insertEvent_cyc _ c s) h
  | cyc => exact absurd (.inl rfl) hi
  | emu n => exact absurd (.inr (.inl ⟨n, rfl⟩)) hi
  | fdivn n => exact absurd (.inr (.inr (.inl ⟨n, rfl⟩))) hi
  | upd | rnd | oclr | rst => cases hw

/-- Where the count changed, W ran a cycle or a command that counts began. -/
theorem step_cyc_changed {s t : State} (h : step s = .next t) (hne : t.cyc ≠ s.cyc) :
    (s.nextAgent = .w ∧ s.emu.isSome = true) ∨ ∃ i, s.startsCommand i ∧ countsCycles i := by
  by_cases hr : s.nextAgent = .r
  · exact absurd (congrArg WriterPart.cyc (step_r_writerPart hr h)) hne
  rcases step_cases h with rfl | ⟨_, rfl⟩ | ⟨_, _, rfl⟩ | ⟨hr', _⟩ | ⟨e, hw, _, he, _⟩ | ⟨_, hr', _⟩ |
    ⟨i, rest, hf, hhost, hfree, hi, ho, hd, hx⟩ | ⟨_, rfl⟩ | ⟨_, hrst, _⟩
  · exact absurd (takeTurn_cyc s) hne
  · exact absurd (by simp [dropCommand]) hne
  · exact absurd (takeTurn_cyc s) hne
  · exact absurd hr' hr
  · exact .inl ⟨hw, by rw [he]; rfl⟩
  · exact absurd hr' hr
  · have hw : s.nextAgent = .w := (w_or_r_of_ne_host hhost).resolve_right hr
    have hcounts : countsCycles i := by
      by_contra hnot
      refine hne ((exec_cyc (hw ▸ ho) hnot hx).trans ?_)
      simp
    exact .inr ⟨i, ⟨⟨rest, hd⟩, hfree, .inl hf, fun hrst => absurd hrst hi⟩, hcounts⟩
  · exact absurd (by simp [dropCommand]) hne
  · exact .inr ⟨.rst, hrst, .inr (.inr (.inr rfl))⟩

/-- Settles O56: only a cycle of an `EMU` and the counting commands move the count, forward, and `RST` sets it to 0. -/
theorem cycleCountOnlyGrows : Obligations.CycleCountOnlyGrows := by
  intro s t h
  refine ⟨?_, ?_, step_cyc_changed h⟩ <;> rcases step_units h with ⟨_, hcyc⟩ | ⟨hrst, rfl⟩
  · exact fun h0 => le_trans h0 hcyc
  · exact fun _ => powerOn_cycInv _ _ _
  · exact fun _ => hcyc
  · exact fun hnot => absurd hrst hnot

end Sys2Proof.Machine
end

section
/-! PROOF. Sticky faults, registers that read back, and the state after reset (10_state.md R40, R50, R63). -/

namespace Sys2Proof.Machine

/-! ### Faults -/

/-- Settles O12: from a halted block a step only drops what is pending or under way, or resets. -/
theorem faultIsSticky : Obligations.FaultIsSticky := by
  intro s t hf h
  rcases step_cases h with rfl | ⟨_, rfl⟩ | ⟨_, _, rfl⟩ | ⟨_, _, rfl⟩ | ⟨_, _, h0, _⟩ | ⟨_, _, h0, _⟩ |
    ⟨_, _, h0, _⟩ | ⟨h0, _⟩ | ⟨_, hrst, rfl⟩
  · exact .inl (takeTurn_fault s)
  · exact .inl (by simp [dropCommand])
  · exact .inl (takeTurn_fault s)
  · exact .inl (takeTurn_fault s)
  · exact absurd h0 hf
  · exact absurd h0 hf
  · exact absurd h0 hf
  · exact absurd h0 hf
  · exact .inr ⟨hrst, rfl⟩

/-! ### Registers -/

@[simp] theorem trigger_reg (s : State) : (trigger s).reg = s.reg := by
  unfold trigger
  dsimp only
  split <;> rfl

@[simp] theorem trigger_fault (s : State) : (trigger s).fault = s.fault := by
  unfold trigger
  dsimp only
  split <;> rfl

theorem writeFhi_reg (d : Byte) (s : State) : (writeFhi d s).reg = s.reg.set 4 d := by
  unfold writeFhi
  dsimp only
  split <;> simp

theorem writeFhi_fault (d : Byte) (s : State) : (writeFhi d s).fault = s.fault := by
  unfold writeFhi
  dsimp only
  split <;> simp

/-- Every `WR` stores its byte in its register, whatever else it does (10_state.md R40). -/
theorem exec_wr {s : State} {n : Nat} {d : Byte} {i : Instr} (hs : s.Running) (hi : wrInstr s.cfg.kind n d = some i) :
    ∃ (t : State) (hn : n < 5), exec i s = .next t ∧ t.Running ∧ t.reg = s.reg.set n d hn := by
  have hf : s.fault = .none := hs
  have run (f : State → State) : transact f s = .next (f s) := transact_running f s hf
  have kind {k : ChKind} {f : State → State} (hk : s.cfg.kind = k) : transact (forKind k f) s = .next (f s) := by
    rw [run, forKind_fits k f s hk]
  unfold wrInstr at hi
  split at hi <;> cases hi
  · exact ⟨_, by decide, kind (by assumption), by simpa [State.Running] using hf, by simp⟩
  · exact ⟨_, by decide, kind (by assumption), hf, rfl⟩
  · exact ⟨_, by decide, kind (by assumption), hf, rfl⟩
  · exact ⟨_, by decide, kind (by assumption), hf, rfl⟩
  · exact ⟨_, by decide, kind (by assumption), hf, rfl⟩
  · exact ⟨_, by decide, kind (by assumption), hf, rfl⟩
  · exact ⟨_, by decide, run (fun s => recomputePeriod (setReg 3 d s)), hf, rfl⟩
  · exact ⟨_, by decide, run _, (writeFhi_fault d s).trans hf, writeFhi_reg d s⟩

/-- `RD` of a register that exists answers its byte (45 R262). -/
theorem exec_rd {s : State} (hs : s.Running) {n : Nat} (hn : n < 5) :
    exec (.rd (BitVec.ofNat 3 n)) s = .next { s with resp := s.reg[n] } := by
  have hsel : (BitVec.ofNat 3 n).toNat = n := by rw [BitVec.toNat_ofNat]; omega
  have hread : exec (.rd (BitVec.ofNat 3 n)) s = .next (readReg (BitVec.ofNat 3 n) s) := transact_running _ s hs
  rw [hread]
  simp only [readReg, hsel, hn, dif_pos]
  rfl

/-- Settles O16: every `WR` stores its byte in one register, which `RD` answers. -/
theorem registersReadBackWhatWasWritten : Obligations.RegistersReadBackWhatWasWritten := by
  intro s n d i hs hi
  obtain ⟨t, hn, hw, ht, hreg⟩ := exec_wr hs hi
  refine ⟨t, { t with resp := d }, hw, ht, ?_, rfl, fun m hm => ?_⟩
  · rw [exec_rd ht hn]
    simp [hreg]
  · simp [hreg, Ne.symm hm]

/-! ### Reset -/

/-- `powerOn` writes out the table of 10_state.md R63. -/
theorem powerOn_atReset (cfg : Params) (out : Memory Int) (env : Env) : (State.powerOn cfg out env).AtReset := by
  constructor
  case reg => exact fun m => by simp
  case code => simp [State.code]
  case ring => exact fun _ => rfl
  all_goals rfl

/-- The converse of `idle_of_not_underWay`, with the halted block, which continues no transaction. -/
theorem not_underWay_of_idle {s : State} (h : s.Running → s.Idle) : s.underWay = false := by
  by_cases hf : s.fault = .none
  · obtain ⟨hemu, hrender⟩ := h hf
    simp [State.underWay, hemu, hrender]
  · simp [State.underWay, State.halted, hf]

/-- Settles O49: with nothing under way `RST` is `resetBlock`, a `powerOn` over the same parameters and buffer. -/
theorem resetRestoresEverything : Obligations.ResetRestoresEverything :=
  ⟨powerOn_atReset _ _ _, fun s hidle =>
    ⟨resetBlock s, execRst_next s (not_underWay_of_idle hidle), powerOn_atReset _ _ _, rfl, rfl, rfl⟩⟩

/-- Settles O51: the ring is empty, nothing is under way, and every counter is 0. -/
theorem resetMeetsTheInvariants : Obligations.ResetMeetsTheInvariants := by
  intro cfg out env hwf hfits
  exact ⟨rfl, ⟨rfl, rfl⟩, rfl, powerOn_ringInv _ _ _, renderInv_of_none rfl, powerOn_dividerInv _ _ _,
    powerOn_envelopeInv _ _ _, powerOn_absentInv _ _ _, powerOn_cycInv _ _ _, fun h => by simp at h, ⟨rfl, hwf⟩,
    ⟨rfl, hfits⟩⟩

end Sys2Proof.Machine
end

section
/-! PROOF. Which of its parts a step runs: the decoded command, the transaction under way, or none (20_memory.md R88). -/

namespace Sys2Proof.Machine

/-! ### Starting a command -/

theorem startCommand_decoded {a : Agent} {s : State} {i : Instr} {rest : List Word}
    (h : decodeOn s.cfg.kind a (s.portWords a) = .ok (i, rest)) : startCommand a s = exec i (setPort a rest s) := by
  rcases startCommand_cases a s with ⟨hnil, _⟩ | ⟨_, _, hd, hs⟩ | ⟨_, _, hd, _⟩
  · rw [hnil] at h
    cases h
  · cases hd.symm.trans h
    exact hs
  · cases hd.symm.trans h

theorem startCommand_nothing {a : Agent} {s : State} (h : s.portWords a = []) : startCommand a s = .next s := by
  simp [startCommand, h]

/-! ### Turns in a running block -/

theorem takeTurn_running {s : State} (h : s.Running) : (takeTurn s).Running := (takeTurn_fault s).trans h

theorem takeTurn_portFree {s : State} {a : Agent} (h : s.PortFree a) : (takeTurn s).PortFree a := by
  cases a
  · exact (takeTurn_emu s).trans h
  · exact (takeTurn_render s).trans h
  · trivial

/-- With no transaction under way an agent of the block starts its next command. -/
theorem agentTurn_free {a : Agent} {s : State} (ha : a ≠ .host) (hs : s.Running) (hfree : s.PortFree a) :
    agentTurn a s = startCommand a s := by
  have hrun : s.halted = false := (not_halted_iff s).2 hs
  cases a
  · have hemu : s.emu = none := hfree
    simp [agentTurn, turnW, hrun, hemu]
  · have hrender : s.render = none := hfree
    simp [agentTurn, turnR, hrun, hrender]
  · exact absurd rfl ha

theorem agentTurn_emu {s : State} {e : EmuRun} (hs : s.Running) (he : s.emu = some e) :
    agentTurn .w s = .next (emuCycle e s) := by
  have hrun : s.halted = false := (not_halted_iff s).2 hs
  simp [agentTurn, turnW, hrun, he]

theorem agentTurn_render {s : State} {r : RenderRun} (hs : s.Running) (hr : s.render = some r) :
    agentTurn .r s = .next (renderStep r s) := by
  have hrun : s.halted = false := (not_halted_iff s).2 hs
  simp [agentTurn, turnR, hrun, hr]

theorem agentTurn_nothing {a : Agent} {s : State} (hs : s.Running) (hfree : s.PortFree a) (hw : s.portWords a = []) :
    agentTurn a s = .next s := by
  by_cases ha : a = .host
  · subst ha
    simp [agentTurn, turnHost, hw]
  · rw [agentTurn_free ha hs hfree, startCommand_nothing hw]

/-- The host's turn runs `RST` where nothing is under way (60_exceptions.md R322); its one word is taken off the port. -/
theorem agentTurn_rst {s : State} {rest : List Word} (h : s.underWay = false) (hw : s.portWords .host = 0xF000 :: rest) :
    agentTurn .host s = exec .rst (setPort .host rest s) := by
  have hdrop : dropCommand .host s = setPort .host rest s := by
    rw [dropCommand, hw]
    rfl
  simp [agentTurn, turnHost, hw, h, hdrop, exec]

/-! ### Steps -/

/-- Settles O8: W and R start the command their port decodes to; the host owns `RST` alone. -/
theorem stepRunsTheDecodedCommand : Obligations.StepRunsTheDecodedCommand := by
  intro s i rest hs hfree hidle hd
  unfold step
  by_cases ha : s.nextAgent = .host
  · rw [ha] at hd ⊢
    obtain ⟨hdec, howns⟩ := decodeOn_ok hd
    obtain rfl : i = .rst := (owns_rst_iff _ _ howns).1 rfl
    cases hw : s.portWords .host with
    | nil =>
      rw [hw] at hdec
      cases hdec
    | cons h ws =>
      rw [hw] at hdec
      obtain ⟨rfl, rfl⟩ := decode_rst _ _ _ _ hdec
      exact agentTurn_rst (by simpa using not_underWay_of_idle fun _ => hidle rfl) (by simpa using hw)
  · rw [agentTurn_free ha (takeTurn_running hs) (takeTurn_portFree hfree)]
    exact startCommand_decoded (by simpa using hd)

/-- Settles O9: the turn of an agent that is in the middle of a transaction, or has nothing to start. -/
theorem stepContinuesOrIdles : Obligations.StepContinuesOrIdles := by
  intro s hs
  have hs' := takeTurn_running hs
  unfold step
  refine ⟨fun e ha he => ?_, fun r ha hr => ?_, fun hfree hw => ?_⟩
  · rw [ha, agentTurn_emu hs' (by simpa using he)]
  · rw [ha, agentTurn_render hs' (by simpa using hr)]
  · exact agentTurn_nothing hs' (takeTurn_portFree hfree) (by simpa using hw)

end Sys2Proof.Machine
end

section
/-! PROOF. The sample of a window and the two views of its last record (20_memory.md R91; 44_renderer.md R235, R239). -/

namespace Sys2Proof.Machine

/-! ### The sample of a window -/

/-- No record of the window covers the position: silence. -/
theorem windowSample_eq_zero {s : State} {p : Int}
    (h : ∀ j, j < s.dist s.oldest s.pwe → covers (s.liveRecord j) p = false) : s.windowSample p = 0 := by
  have hfind : ((List.range (s.dist s.oldest s.pwe)).find? fun j => covers (s.liveRecord j) p) = none := by
    simpa using h
  rw [State.windowSample, hfind]

/-- The first record of the window that covers the position gives its sample. -/
theorem windowSample_eq_sample {s : State} {p : Int} {j : Nat} (hj : j < s.dist s.oldest s.pwe)
    (hc : covers (s.liveRecord j) p = true) (hfirst : ∀ i, i < j → covers (s.liveRecord i) p = false) :
    s.windowSample p = s.sample (s.liveRecord j) := by
  have hfind : ((List.range (s.dist s.oldest s.pwe)).find? fun j => covers (s.liveRecord j) p) = some j :=
    List.find?_range_eq_some.2 ⟨hc, List.mem_range.2 hj, fun i hi => by simp [hfirst i hi]⟩
  rw [State.windowSample, hfind]

/-- The sample depends on what the window's records cover and on their amplitudes. -/
theorem windowSample_congr {s t : State} {p : Int} (hlen : t.dist t.oldest t.pwe = s.dist s.oldest s.pwe)
    (hcov : ∀ j, j < s.dist s.oldest s.pwe → covers (t.liveRecord j) p = covers (s.liveRecord j) p)
    (hsample : ∀ j, t.sample (t.liveRecord j) = s.sample (s.liveRecord j)) : t.windowSample p = s.windowSample p := by
  have hfind : ((List.range (t.dist t.oldest t.pwe)).find? fun j => covers (t.liveRecord j) p) =
      (List.range (s.dist s.oldest s.pwe)).find? fun j => covers (s.liveRecord j) p := by
    rw [hlen]
    exact List.find?_congr fun j hj => hcov j (List.mem_range.1 hj)
  simp only [State.windowSample, hfind, hsample]

/-! ### The records before the last one -/

/-- Item 5 of the invariants along the ring: starts do not decrease. -/
theorem liveRecord_start_mono {s : State} (hs : s.RingInv) {i j : Nat} (hij : i ≤ j) (hj : j < s.live) :
    (s.liveRecord i).start.toInt ≤ (s.liveRecord j).start.toInt := by
  induction j, hij using Nat.le_induction with
  | base => exact le_refl _
  | succ k _ ih => exact (ih (by omega)).trans (hs.abut k hj).2

/-- A record is closed where the next one starts, so it covers nothing from the start of a later one on. -/
theorem covers_eq_false_of_later {s : State} (hs : s.RingInv) {i j : Nat} (hij : i < j) (hj : j < s.live) {p : Int}
    (hp : (s.liveRecord j).start.toInt ≤ p) : covers (s.liveRecord i) p = false := by
  have hclosed : (s.liveRecord i).isOpen = false := by
    rw [hs.lastOpen i (by omega)]
    exact decide_eq_false (by omega)
  have hstop : (s.liveRecord i).stop.toInt ≤ p := by
    rw [(hs.abut i (by omega)).1]
    exact (liveRecord_start_mono hs hij hj).trans hp
  simp [covers, hclosed, hstop]

/-! ### Closing the last record -/

theorem slot_closeSlot (l : Nat) (c : Cycle) (s : State) (i : Nat) :
    (closeSlot l c s).slot i = if i = l then { s.slot l with stop := c, isOpen := false } else s.slot i := by
  split_ifs with h
  · rw [h]
    exact slot_setSlot_same s l _
  · exact slot_setSlot_other s l i _ h

theorem liveRecord_closeSlot (c : Cycle) (s : State) {i j : Nat} (hi : i < s.cfg.ringN) (hj : j < s.cfg.ringN) :
    (closeSlot (s.liveSlot j) c s).liveRecord i =
      if i = j then { s.liveRecord j with stop := c, isOpen := false } else s.liveRecord i := by
  have hslot : s.liveSlot i = s.liveSlot j ↔ i = j := ⟨liveSlot_injective s hi hj, fun h => by rw [h]⟩
  show (closeSlot (s.liveSlot j) c s).slot (s.liveSlot i) = _
  simp only [slot_closeSlot, hslot]
  rfl

theorem amp_closeSlot (l : Nat) (c : Cycle) (s : State) (i : Nat) :
    ((closeSlot l c s).slot i).amp = (s.slot i).amp := by
  rw [slot_closeSlot]
  split_ifs with h
  · rw [h]
  · rfl

section

variable {s : State} {c : Cycle} {j : Nat} {p : Int} (hs : s.RingInv) (hj : s.dist s.oldest s.pwe = j + 1)
include hj

/-- What the window's records cover once its last one is closed. -/
theorem covers_closeSlot_last {i : Nat} (hi : i < j + 1) :
    covers ((closeSlot (s.liveSlot j) c s).liveRecord i) p =
      if i = j then decide ((s.liveRecord j).start.toInt ≤ p) && decide (p < c.toInt)
      else covers (s.liveRecord i) p := by
  have hlt := dist_lt s s.oldest s.pwe
  rw [liveRecord_closeSlot c s (by omega) (by omega)]
  split_ifs
  · simp [covers]
  · rfl

theorem windowSample_closeSlot_below (hopen : (s.liveRecord j).isOpen = true) (hp : p < c.toInt) :
    (closeSlot (s.liveSlot j) c s).windowSample p = s.windowSample p := by
  refine windowSample_congr rfl (fun i hi => ?_) fun i => ?_
  · rw [covers_closeSlot_last hj (by omega)]
    split_ifs with h
    · simp [covers, h, hopen, hp]
    · rfl
  · exact congrArg (· * s.cfg.gain) (amp_closeSlot _ c s _)

include hs

theorem windowSample_closeSlot_above (hstart : (s.liveRecord j).start.toInt ≤ c.toInt) (hp : c.toInt ≤ p) :
    (closeSlot (s.liveSlot j) c s).windowSample p = 0 := by
  have hlive : j < s.live := Nat.lt_of_lt_of_le (by omega) hs.window
  refine windowSample_eq_zero fun i hi => ?_
  have hi : i < j + 1 := lt_of_lt_of_eq hi hj
  rw [covers_closeSlot_last hj hi]
  split_ifs with h
  · simp [hp]
  · exact covers_eq_false_of_later hs (show i < j by omega) hlive (hstart.trans hp)

theorem windowSample_open_last (hopen : (s.liveRecord j).isOpen = true) (hp : (s.liveRecord j).start.toInt ≤ p) :
    s.windowSample p = s.sample (s.liveRecord j) := by
  have hlive : j < s.live := Nat.lt_of_lt_of_le (by omega) hs.window
  refine windowSample_eq_sample (by omega) ?_ fun i hi => covers_eq_false_of_later hs hi hlive hp
  simp [covers, hopen, hp]

end

/-- Settles O48: below `c` both views cover the same; from `c` on only the last record of the window can, if open. -/
theorem twoViewsOfTheLastSlot : Obligations.TwoViewsOfTheLastSlot := by
  intro s c p hs hpos l hopen hstart
  obtain ⟨j, hj⟩ : ∃ j, s.dist s.oldest s.pwe = j + 1 := ⟨_, (Nat.sub_add_cancel hpos).symm⟩
  have hl : l = s.liveSlot j := by simp only [l, hj, Nat.add_sub_cancel]
  rw [hl] at hopen hstart ⊢
  exact ⟨windowSample_closeSlot_below hj hopen, fun hp =>
    ⟨windowSample_closeSlot_above hs hj hstart hp, windowSample_open_last hs hj hopen (hstart.trans hp)⟩⟩

end Sys2Proof.Machine
end

section
/-! PROOF. What a turn of W does to the ring: nothing, or one record appended (43_event_ring.md R204, R216). -/

namespace Sys2Proof.Machine

/-! ### The ring left alone -/

/-- Parameters, ring, cursors and `wr_valid` are the same. -/
structure SameRing (s t : State) : Prop where
  cfg  : t.cfg = s.cfg
  view : t.ringView = s.ringView

theorem SameRing.refl (s : State) : SameRing s s := ⟨rfl, rfl⟩

theorem SameRing.trans {s t u : State} (h : SameRing s t) (h' : SameRing t u) : SameRing s u :=
  ⟨h'.cfg.trans h.cfg, h'.view.trans h.view⟩

theorem RingBlind.sameRing {f : State → State} (h : RingBlind f) (s : State) : SameRing s (f s) :=
  ⟨h.cfg s, h.view s⟩

/-! ### At most one record appended -/

/-- Either the ring is left alone, or one record is appended to it, where there is room. -/
inductive AppendsAtMostOne (s t : State) : Prop
  | same (h : SameRing s t)
  | appended {u : State} {amp : Int} {c : Cycle} (before : SameRing s u) (room : u.ringFull = false)
      (after : SameRing (Machine.appended amp c u) t)

namespace AppendsAtMostOne

variable {s t u : State}

theorem before (h : SameRing s t) : AppendsAtMostOne t u → AppendsAtMostOne s u
  | .same h' => .same (h.trans h')
  | .appended h1 hroom h2 => .appended (h.trans h1) hroom h2

theorem after (h : SameRing t u) : AppendsAtMostOne s t → AppendsAtMostOne s u
  | .same h' => .same (h'.trans h)
  | .appended h1 hroom h2 => .appended h1 hroom (h2.trans h)

theorem blind {f : State → State} (hf : RingBlind f) (s : State) : AppendsAtMostOne s (f s) :=
  .same (hf.sameRing s)

end AppendsAtMostOne

theorem insertEvent_appends (amp : Int) (c : Cycle) (s : State) : AppendsAtMostOne s (insertEvent amp c s) := by
  have hlock (t : State) : SameRing t { t with lock := .free } := ⟨rfl, rfl⟩
  rw [insertEvent_eq]
  refine .after (hlock _) ?_
  rcases insertRecord_cases amp c s with ⟨_, e⟩ | ⟨_, _, e⟩ | ⟨_, _, _, e⟩ | ⟨_, _, _, _, e⟩ |
    ⟨_, _, _, hroom, e⟩ <;> rw [e]
  · exact .blind (raise_ringBlind _) s
  · exact .blind .id s
  · exact .blind (raise_ringBlind _) s
  · exact .blind (raise_ringBlind _) s
  · exact .appended (.refl s) hroom (.refl _)

/-! ### Cycles: an underflow inserts once -/

theorem underflow_appends (s : State) : AppendsAtMostOne s (underflow s) :=
  .before (advanceStep_ringBlind.sameRing s) (insertEvent_appends _ _ _)

theorem cycle_appends (s : State) : AppendsAtMostOne s (cycle s).state := by
  have helapse (timer : BitVec 14) : SameRing s (elapse 1 timer s) := ⟨rfl, rfl⟩
  rw [cycle_state]
  split_ifs
  · exact .blind (raise_ringBlind _) s
  · exact .before (helapse _) (underflow_appends _)
  · exact .same (helapse _)

theorem oneCycle_appends (s : State) : AppendsAtMostOne s (oneCycle s) := by
  refine .after ?_ (cycle_appends s)
  unfold oneCycle
  dsimp only
  split <;> exact ⟨rfl, rfl⟩

theorem emuCycle_appends (e : EmuRun) (s : State) : AppendsAtMostOne s (emuCycle e s) := by
  refine .after ?_ (cycle_appends s)
  unfold emuCycle
  dsimp only
  split_ifs <;> exact ⟨rfl, rfl⟩

theorem startEmu_appends (n : Nat) (s : State) : AppendsAtMostOne s (startEmu n s) := by
  unfold startEmu
  split
  · exact .blind (setFired_ringBlind false) s
  · exact emuCycle_appends _ s

theorem batch_appends (n : Nat) (s : State) : AppendsAtMostOne s (batch n s) := by
  have helapse (timer : BitVec 14) : SameRing s (elapse n timer s) := ⟨rfl, rfl⟩
  unfold batch
  dsimp only
  split_ifs
  · exact .blind (raise_ringBlind _) s
  · exact .before (helapse _) (underflow_appends _)
  · exact .before (helapse _) (.after ((setFired_ringBlind true).sameRing _) (underflow_appends _))
  · exact .same ⟨rfl, rfl⟩

/-! ### Commands and turns -/

theorem exec_w_appends {i : Instr} {s t : State} (hw : Agent.w.owns i = true) (h : exec i s = .next t) :
    AppendsAtMostOne s t := by
  have rel {f : State → State} := transact_rel (R := AppendsAtMostOne) (f := f) (s := s) (t := t) (.blind .id s)
  have blind {f : State → State} (hf : RingBlind f) (h : transact f s = .next t) : AppendsAtMostOne s t :=
    rel (.blind hf s) h
  cases i with
  | nop => exact blind .id h
  | wrSwp d => exact blind (forKind_ringBlind _ ((markSweep_ringBlind d).comp (setReg_ringBlind 0 d))) h
  | wrWon d | wrLen d | wrWlen d | wrWvol d => exact blind (forKind_ringBlind _ (setReg_ringBlind _ d)) h
  | wrEnv d => exact blind (forKind_ringBlind _ (reloadEnvelope_ringBlind.comp (setReg_ringBlind 2 d))) h
  | wrFlo d => exact blind (recomputePeriod_ringBlind.comp (setReg_ringBlind 3 d)) h
  | wrFhi d => exact blind (writeFhi_ringBlind d) h
  | rd sel => exact blind (readReg_ringBlind sel) h
  | envclk =>
    dsimp only [exec, execEnvclk] at h
    refine rel ?_ h
    split
    · exact .blind tickEnvelope_ringBlind s
    · exact .blind .id s
  | cyc => exact rel (oneCycle_appends s) h
  | emu n => exact rel (startEmu_appends _ s) h
  | fdivn n => exact rel (batch_appends _ s) h
  | ins amp c => exact rel (insertEvent_appends _ c s) h
  | wrw idx d => exact blind (forKind_ringBlind _ (setWram_ringBlind _ d)) h
  | rdw idx => exact blind (forKind_ringBlind _ (readWram_ringBlind idx)) h
  | upd | rnd | oclr | rst => cases hw

theorem step_w_appends {s t : State} (ha : s.nextAgent = .w) (h : step s = .next t) : AppendsAtMostOne s t := by
  refine .before (takeTurn_ringBlind.sameRing s) ?_
  rcases step_cases h with rfl | ⟨_, rfl⟩ | ⟨_, _, rfl⟩ | ⟨hr, _⟩ | ⟨e, _, _, _, rfl⟩ | ⟨_, hr, _⟩ |
    ⟨i, rest, _, _, _, _, ho, _, hx⟩ | ⟨_, rfl⟩ | ⟨hr, _⟩ <;> rw [ha] at *
  · exact .blind .id _
  · exact .blind (dropCommand_ringBlind .w) _
  · exact .blind dropEmu_ringBlind _
  · cases hr
  · exact emuCycle_appends e _
  · cases hr
  · exact .before ((setPort_ringBlind .w rest).sameRing _) (exec_w_appends ho hx)
  · exact .blind ((raise_ringBlind _).comp (dropCommand_ringBlind .w)) _
  · cases hr

/-! ### What is left of the live records -/

/-- Of the records live before it, a turn of W closes at most the last one, with the record it appends. -/
theorem AppendsAtMostOne.liveRecord_cases {s t : State} (h : AppendsAtMostOne s t) (hs : s.RingInv) {j : Nat}
    (hj : j < s.live) :
    t.liveRecord j = s.liveRecord j ∨
      (j + 1 = s.live ∧ t.newest = s.next s.newest ∧
        ∃ c, t.liveRecord j = { s.liveRecord j with stop := c, isOpen := false }) := by
  cases h with
  | same h => exact .inl (congrFun (liveRecord_congr h.cfg h.view) j)
  | @appended u amp c before room after =>
    have hlive := live_congr before.cfg before.view
    have hrec := liveRecord_congr before.cfg before.view
    have hu := ringInv_congr before.cfg before.view hs
    have hnewest : t.newest = s.next s.newest := by
      have h1 : t.newest = (Machine.appended amp c u).newest := congrArg RingView.newest after.view
      have h2 : u.newest = s.newest := congrArg RingView.newest before.view
      rw [h1, appended_frame, State.next, State.next, h2, before.cfg]
    rw [liveRecord_congr after.cfg after.view, liveRecord_appended hu.range hu.lastKept amp c (by omega), hlive, hrec,
      if_neg hj.ne]
    split_ifs with hlast
    · exact .inr ⟨hlast, hnewest, c, rfl⟩
    · exact .inl rfl

theorem next_ne {s : State} {a : Nat} (h : a < s.cfg.ringN) : s.next a ≠ a := by
  have := s.cfg.ringN_ge
  rw [State.next, cycInc_cases _ a h]
  split_ifs <;> omega

/-- Settles O43: the one record that an insertion closes is the last live one, so the window's last at most. -/
theorem writerLeavesTheWindowAlone : Obligations.WriterLeavesTheWindowAlone := by
  intro s t hs ha h
  obtain ⟨hcfg, holdest, hpwe, _, _, _, _, _, _⟩ := ReaderPart.mk.inj (step_w_effect ha h).reader
  refine ⟨holdest, hpwe, fun j hj => ?_⟩
  have hwindow := hs.window
  have hslot : t.slot (s.liveSlot j) = t.liveRecord j := by simp only [State.liveRecord, State.liveSlot, hcfg, holdest]
  rw [hslot]
  have hlive : j < s.live := lt_of_lt_of_le hj hwindow
  rcases (step_w_appends ha h).liveRecord_cases hs hlive with he | ⟨hlast, hnewest, c, he⟩ <;> rw [he]
  · exact ⟨rfl, rfl, .inl rfl⟩
  · have hend : s.dist s.oldest s.pwe = s.dist s.oldest s.newest := le_antisymm hwindow (by rw [← State.live]; omega)
    have hsnapshot : s.pwe = s.newest :=
      cycDist_injective hs.range.oldest_lt hs.range.pwe_lt hs.range.newest_lt hend
    have hopen : (s.liveRecord j).isOpen = true := by rw [hs.lastOpen j hlive, decide_eq_true hlast]
    refine ⟨rfl, rfl, .inr ⟨by rw [hend]; exact hlast, hsnapshot, ?_, hopen, rfl⟩⟩
    rw [hnewest, hsnapshot]
    exact next_ne hs.range.newest_lt

end Sys2Proof.Machine
end

section
/-! PROOF. Operations that do not see a part of the state: replacing that part changes nothing else of what they do
(20_memory.md R93; 60_exceptions.md R321). -/

namespace Sys2Proof.Machine

/-- `put w s` is `s` with a part of the state taken from `w`. The operation does not see that part: on any content of it,
it does the same to the rest. -/
def Blind (put : State → State → State) (f : State → State) : Prop := ∀ w s, ∃ w', f (put w s) = put w' (f s)

/-- The same of a command or a turn, which answers a next state too. -/
def TurnBlind (put : State → State → State) (F : State → Host.Outcome State Fault Refusal) : Prop :=
  ∀ w s, ∃ w' s', F s = .next s' ∧ F (put w s) = .next (put w' s')

variable {put : State → State → State} {f g : State → State} {F : State → Host.Outcome State Fault Refusal}

namespace Blind

/-- An update of the seen part from the seen part. -/
theorem update (h : ∀ w s, f (put w s) = put w (f s) := by intros; rfl) : Blind put f := fun w s => ⟨w, h w s⟩

theorem id : Blind put fun s => s := update

theorem comp (hg : Blind put g) (hf : Blind put f) : Blind put (fun s => g (f s)) := fun w s => by
  obtain ⟨w', hf⟩ := hf w s
  obtain ⟨w'', hg⟩ := hg w' (f s)
  exact ⟨w'', (congrArg g hf).trans hg⟩

/-- A choice that does not see the part. -/
theorem choose {γ : Type} {F : γ → State → State} (c : State → γ) (hF : ∀ x, Blind put (F x))
    (hc : ∀ w s, c (put w s) = c s := by intros; rfl) : Blind put (fun s => F (c s) s) := fun w s => by
  obtain ⟨w', h⟩ := hF (c s) w s
  exact ⟨w', (congrArg (F · _) (hc w s)).trans h⟩

theorem ite {p : State → Prop} [DecidablePred p] (hf : Blind put f) (hg : Blind put g)
    (hp : ∀ w s, p (put w s) ↔ p s := by intros; rfl) : Blind put (fun s => if p s then f s else g s) := by
  have h := choose (F := fun b => if b = true then f else g) (fun s => decide (p s))
    (fun b => by cases b; exacts [hg, hf]) (fun w s => decide_eq_decide.2 (hp w s))
  simpa only [decide_eq_true_eq, ite_apply] using h

theorem turn (hf : Blind put f) : TurnBlind put fun s => .next (f s) := fun w s => by
  obtain ⟨w', h⟩ := hf w s
  exact ⟨w', f s, rfl, congrArg _ h⟩

theorem transact (hf : Blind put f) (hh : ∀ w s, (put w s).halted = s.halted := by intros; rfl) :
    TurnBlind put (transact f) :=
  (ite id hf fun w s => by rw [hh]).turn

/-- A critical section does not see the part that its body does not see, be the lock in that part or not. -/
theorem locked (hf : Blind put f) (hlock : ∀ l, Blind put fun s => { s with lock := l }) (a : Lock) :
    Blind put (locked a f) :=
  (hlock .free).comp (hf.comp (hlock a))

end Blind

namespace TurnBlind

theorem comp (hF : TurnBlind put F) (hf : Blind put f) : TurnBlind put fun s => F (f s) := fun w s => by
  obtain ⟨w', hf⟩ := hf w s
  obtain ⟨w'', s', hs, hput⟩ := hF w' (f s)
  exact ⟨w'', s', hs, (congrArg F hf).trans hput⟩

theorem choose {γ : Type} {F : γ → State → Host.Outcome State Fault Refusal} (c : State → γ)
    (hF : ∀ x, TurnBlind put (F x)) (hc : ∀ w s, c (put w s) = c s := by intros; rfl) :
    TurnBlind put fun s => F (c s) s := fun w s => by
  obtain ⟨w', s', hs, hput⟩ := hF (c s) w s
  exact ⟨w', s', hs, (congrArg (F · _) (hc w s)).trans hput⟩

end TurnBlind

/-- The next command of a port whose words are in the seen part: one that the agent owns, an illegal one, or none. -/
theorem startCommand_turnBlind {a : Agent} (hexec : ∀ i, a.owns i = true → TurnBlind put (exec i))
    (hport : ∀ ws, Blind put (setPort a ws)) (hraise : Blind put (raise .illegalCmd))
    (hwords : ∀ w s, ((put w s).portWords a, (put w s).cfg.kind) = (s.portWords a, s.cfg.kind) := by intros; rfl) :
    TurnBlind put (startCommand a) := by
  refine .choose (F := fun (x : List Word × ChKind) s => match x.1 with
    | [] => .next s
    | h :: ws => match decodeOn x.2 a (h :: ws) with
      | .ok (i, rest) => exec i (setPort a rest s)
      | .error _ => .next (raise .illegalCmd (setPort a (afterCommand x.1) s)))
    (fun s => (s.portWords a, s.cfg.kind)) (fun x => ?_) hwords
  obtain ⟨_ | ⟨h, ws⟩, k⟩ := x
  · exact Blind.id.turn
  · cases hd : decodeOn k a (h :: ws) with
    | error e =>
      simp only [hd]
      exact (hraise.comp (hport _)).turn
    | ok v =>
      simp only [hd]
      exact (hexec v.1 (decodeOn_ok hd).2).comp (hport v.2)

end Sys2Proof.Machine
end

section
/-! PROOF. R's turn does not see W's private state (20_memory.md R93; 60_exceptions.md R321). -/

namespace Sys2Proof.Machine

/-- `s` with all that R does not read taken from `w`. -/
def hideFromR (w s : State) : State :=
  { w with
    cfg := s.cfg, fault := s.fault, ring := s.ring, newest := s.newest, oldest := s.oldest, pwe := s.pwe, rc := s.rc,
    samples := s.samples, out := s.out, render := s.render,
    env := { w.env with rPort := s.env.rPort, resets := s.env.resets } }

theorem AgreeForR.eq_hideFromR {s t : State} (h : AgreeForR s t) : t = hideFromR t s := by
  obtain ⟨hcfg, hfault, hring, hnewest, holdest, hpwe, hrc, hsamples, hout, hrender, hport, hresets⟩ := h
  simp only [hideFromR, hcfg, hfault, hring, hnewest, holdest, hpwe, hrc, hsamples, hout, hrender, hport, hresets]

theorem agreeForR_hideFromR (w s : State) : AgreeForR s (hideFromR w s) := by
  constructor <;> rfl

/-! ### Faults and the lock -/

theorem raise_blindR (x : FaultCode) : Blind hideFromR (raise x) := .ite .update .id

theorem setLock_blindR (l : Lock) : Blind hideFromR fun s => { s with lock := l } := fun w _ =>
  ⟨{ w with lock := l }, rfl⟩

/-! ### The queue -/

theorem retire_blindR (ref : Cycle) (fuel : Nat) : Blind hideFromR (retire ref fuel) := by
  induction fuel with
  | zero => exact .id
  | succ n ih =>
    rw [funext (retire_succ ref n)]
    exact .ite (ih.comp (f := retireOne) .update) .id

theorem updateQueue_blindR (ref : Cycle) : Blind hideFromR (updateQueue ref) :=
  have hsnapshot : Blind hideFromR fun s => { s with pwe := s.newest } := .update
  hsnapshot.comp (.choose (F := retire ref) (fun s => s.dist s.oldest s.newest) (retire_blindR ref))

/-! ### Renders and frames -/

theorem beginRender_blindR (frames : Nat) (fs : BitVec 32) (ref : Cycle) : Blind hideFromR (beginRender frames fs ref) :=
  have hbegin : Blind hideFromR fun s => { s with rc := s.oldest, render := some ⟨0, frames, fs, ref⟩ } := .update
  .ite (raise_blindR _) (hbegin.comp (updateQueue_blindR ref))

theorem scan_hideFromR (w s : State) (p : Int) (fuel rc : Nat) : scan (hideFromR w s) p fuel rc = scan s p fuel rc := by
  induction fuel generalizing rc with
  | zero => rfl
  | succ n ih =>
    have hslot : (hideFromR w s).slot rc = s.slot rc := rfl
    have hpwe : (hideFromR w s).pwe = s.pwe := rfl
    have hnext : (hideFromR w s).next rc = s.next rc := rfl
    have hsample : (hideFromR w s).sample = s.sample := rfl
    rw [scan_succ, scan_succ, hslot, hpwe, hnext, hsample, ih]

theorem renderStep_blindR (r : RenderRun) : Blind hideFromR (renderStep r) := by
  have hframe : Blind hideFromR (renderFrame r) := .update fun w s => by
    simp only [renderFrame, scan_hideFromR]
    rfl
  have hend : Blind hideFromR (renderEnd r) := .update
  exact .ite hframe hend

theorem clearFrames_blindR (frames : Nat) : Blind hideFromR (clearFrames frames) := by
  induction frames with
  | zero => exact .id
  | succ k ih => exact Blind.comp (g := setFrame k 0) .update ih

/-! ### R's commands and turn -/

theorem exec_blindR {i : Instr} (hr : Agent.r.owns i = true) : TurnBlind hideFromR (exec i) := by
  cases i with
  | nop => exact Blind.id.transact
  | upd ref => exact ((updateQueue_blindR ref).locked setLock_blindR .r).transact
  | rnd frames fs ref => exact ((beginRender_blindR _ fs ref).locked setLock_blindR .r).transact
  | oclr frames => exact (clearFrames_blindR _).transact
  | _ => cases hr

theorem turnR_blindR : TurnBlind hideFromR turnR := by
  refine .choose (F := fun (x : Bool × Option RenderRun) s => match x.1, x.2 with
    | true, some _ => .next { s with render := none }
    | true, none => .next (dropCommand .r s)
    | false, some r => .next (renderStep r s)
    | false, none => startCommand .r s) (fun s => (s.halted, s.render)) fun x => ?_
  obtain ⟨_ | _, _ | r⟩ := x
  · exact startCommand_turnBlind (fun _ => exec_blindR) (fun _ => .update) (raise_blindR _)
  · exact (renderStep_blindR r).turn
  · exact Blind.turn .update
  · exact Blind.turn .update

/-- Settles O58: replacing what R does not read changes nothing that R reads, before or after its turn. -/
theorem readerLearnsNothingPrivate : Obligations.ReaderLearnsNothingPrivate := by
  intro s t h
  obtain ⟨w, s', hs, ht⟩ := turnR_blindR t s
  rw [← h.eq_hideFromR] at ht
  exact ⟨s', hideFromR w s', hs, ht, agreeForR_hideFromR w s'⟩

end Sys2Proof.Machine
end

section
/-! PROOF. W's turn does not see R's private state (20_memory.md R93; 60_exceptions.md R321). -/

namespace Sys2Proof.Machine

/-- `s` with all that W does not read taken from `w`. -/
def hideFromW (w s : State) : State :=
  { s with
    pwe := w.pwe, rc := w.rc, samples := w.samples, out := w.out, lock := w.lock, render := w.render,
    env := { w.env with wPort := s.env.wPort, resets := s.env.resets } }

theorem AgreeForW.eq_hideFromW {s t : State} (h : AgreeForW s t) : t = hideFromW t s := by
  obtain ⟨hcfg, hfault, hring, hnewest, holdest, hvalid, hcyc, hreg, hperiod, htimer, hvolume, hcnt, hdstep, hwstep, hwram,
    hresp, hfired, hni, hemu, hport, hresets⟩ := h
  simp only [hideFromW, hcfg, hfault, hring, hnewest, holdest, hvalid, hcyc, hreg, hperiod, htimer, hvolume, hcnt, hdstep,
    hwstep, hwram, hresp, hfired, hni, hemu, hport, hresets]

theorem agreeForW_hideFromW (w s : State) : AgreeForW s (hideFromW w s) := by
  constructor <;> rfl

/-! ### Faults, kinds and the lock -/

theorem raise_blindW (x : FaultCode) : Blind hideFromW (raise x) := .ite .update .id

theorem forKind_blindW (k : ChKind) {f : State → State} (hf : Blind hideFromW f) : Blind hideFromW (forKind k f) :=
  .ite hf (raise_blindW _)

theorem setLock_blindW (l : Lock) : Blind hideFromW fun s => { s with lock := l } := fun w _ =>
  ⟨{ w with lock := l }, rfl⟩

/-! ### Registers, envelope, frequency -/

theorem setReg_blindW (i : Fin 5) (d : Byte) : Blind hideFromW (setReg i d) := .update

theorem setFired_blindW (f : Bool) : Blind hideFromW (setFired f) := .update

theorem markSweep_blindW (d : Byte) : Blind hideFromW (markSweep d) := .ite .id .update

theorem readReg_blindW (sel : BitVec 3) : Blind hideFromW (readReg sel) := by
  unfold readReg
  split
  · exact .update
  · exact raise_blindW _

theorem writeFlo_blindW (d : Byte) : Blind hideFromW fun s => recomputePeriod (setReg 3 d s) := .update

theorem trigger_blindW : Blind hideFromW trigger := by
  refine .choose (put := hideFromW) (F := fun k s => match k with
    | .square => reloadEnvelope { s with timer := s.period }
    | .wave => { s with timer := s.period }) (fun s => s.cfg.kind) fun k => ?_
  cases k <;> exact .update

theorem writeFhi_blindW (d : Byte) : Blind hideFromW (writeFhi d) :=
  have hwrite : Blind hideFromW fun s => recomputePeriod (setReg 4 d s) := .update
  have hmark : Blind hideFromW fun s => markLength d (recomputePeriod (setReg 4 d s)) :=
    Blind.comp (g := markLength d) (.ite .update .id) hwrite
  .ite (trigger_blindW.comp hmark) hmark

theorem tickEnvelope_blindW : Blind hideFromW tickEnvelope := by
  rw [funext tickEnvelope_eq]
  exact .ite .id (.ite .update .update)

/-! ### Insertions -/

theorem closeLast_blindW (c : Cycle) : Blind hideFromW (closeLast c) := .ite .update .id

theorem insertRecord_blindW (amp : Int) (c : Cycle) : Blind hideFromW (insertRecord amp c) :=
  have happend : Blind hideFromW fun s => markWritten (appendRecord amp c s) := .update
  .ite (raise_blindW _) (.ite .id (.ite (raise_blindW _) (.ite (raise_blindW _) (happend.comp (closeLast_blindW c)))))

theorem insertEvent_blindW (amp : Int) (c : Cycle) : Blind hideFromW (insertEvent amp c) :=
  (insertRecord_blindW amp c).locked setLock_blindW .w

/-! ### Cycles -/

theorem advanceStep_blindW : Blind hideFromW advanceStep := by
  refine .choose (put := hideFromW) (F := fun k s => match k with
    | .square => { s with dstep := s.dstep + 1 }
    | .wave => { s with wstep := s.wstep + 1 }) (fun s => s.cfg.kind) fun k => ?_
  cases k <;> exact .update

theorem underflow_blindW : Blind hideFromW underflow :=
  have hinsert : Blind hideFromW fun s => insertEvent s.sourceAmp s.cyc s :=
    .choose (F := fun (x : Int × Cycle) => insertEvent x.1 x.2) (fun s => (s.sourceAmp, s.cyc))
      (fun x => insertEvent_blindW x.1 x.2)
  hinsert.comp advanceStep_blindW

theorem cycle_blindW : Blind hideFromW fun s => (cycle s).state := by
  have helapse : Blind hideFromW fun s => elapse 1 (tick s.period s.timer).timer s := .update
  rw [funext cycle_state]
  exact .ite (raise_blindW _) (.ite (underflow_blindW.comp helapse) helapse)

/-- What follows the cycle may depend on whether it fired. -/
theorem afterCycle_blindW {F : Bool → State → State} (hF : ∀ b, Blind hideFromW (F b)) :
    Blind hideFromW fun s => F (cycle s).fired (cycle s).state :=
  .choose (F := fun b s => F b (cycle s).state) (fun s => (cycle s).fired) (fun b => (hF b).comp cycle_blindW)
    fun w s => by rw [cycle_fired, cycle_fired]; rfl

theorem oneCycle_blindW : Blind hideFromW oneCycle :=
  afterCycle_blindW (F := fun b u => if u.halted = true then u else setFired b u) fun b =>
    .ite .id (setFired_blindW b)

theorem emuCycle_blindW (e : EmuRun) : Blind hideFromW (emuCycle e) :=
  afterCycle_blindW (F := fun b u =>
    if u.halted = true then { u with emu := none }
    else if e.left ≤ 1 then { setFired (e.any || b) u with emu := none }
    else { u with emu := some ⟨e.left - 1, e.any || b⟩ }) fun _ =>
    .ite .update (.ite .update .update)

theorem startEmu_blindW (n : Nat) : Blind hideFromW (startEmu n) :=
  .ite (setFired_blindW false) (emuCycle_blindW _)

theorem batch_blindW (n : Nat) : Blind hideFromW (batch n) :=
  have helapse : Blind hideFromW fun s => elapse n (ticks s.period n ⟨s.timer, false⟩).timer s := .update
  have hend : Blind hideFromW fun u => if u.halted = true then u else setFired true u :=
    .ite .id (setFired_blindW true)
  .ite (raise_blindW _)
    (.ite ((hend.comp underflow_blindW).comp helapse) ((setFired_blindW false).comp helapse))

/-! ### W's commands and turn -/

theorem exec_blindW {i : Instr} (hw : Agent.w.owns i = true) : TurnBlind hideFromW (exec i) := by
  cases i with
  | nop => exact Blind.id.transact
  | wrSwp d => exact (forKind_blindW _ ((markSweep_blindW d).comp (setReg_blindW 0 d))).transact
  | wrWon d | wrLen d | wrWlen d | wrWvol d => exact (forKind_blindW _ (setReg_blindW _ d)).transact
  | wrEnv d | wrw idx d | rdw idx => exact (forKind_blindW _ .update).transact
  | wrFlo d => exact (writeFlo_blindW d).transact
  | wrFhi d => exact (writeFhi_blindW d).transact
  | rd sel => exact (readReg_blindW sel).transact
  | envclk =>
    refine Blind.transact (.choose (F := fun k s => match k with
      | .square => tickEnvelope s
      | .wave => s) (fun s => s.cfg.kind) fun k => ?_)
    cases k
    · exact tickEnvelope_blindW
    · exact .id
  | cyc => exact oneCycle_blindW.transact
  | emu n => exact (startEmu_blindW _).transact
  | fdivn n => exact (batch_blindW _).transact
  | ins amp c =>
    exact (Blind.choose (F := fun a => insertEvent a c) (fun s => s.insAmp amp) fun a => insertEvent_blindW a c).transact
  | upd | rnd | oclr | rst => cases hw

theorem turnW_blindW : TurnBlind hideFromW turnW := by
  refine .choose (F := fun (x : Bool × Option EmuRun) s => match x.1, x.2 with
    | true, some _ => .next { s with emu := none }
    | true, none => .next (dropCommand .w s)
    | false, some e => .next (emuCycle e s)
    | false, none => startCommand .w s) (fun s => (s.halted, s.emu)) fun x => ?_
  obtain ⟨_ | _, _ | e⟩ := x
  · exact startCommand_turnBlind (fun _ => exec_blindW) (fun _ => .update) (raise_blindW _)
  · exact (emuCycle_blindW e).turn
  · exact Blind.turn .update
  · exact Blind.turn .update

/-- Settles O59: replacing what W does not read changes nothing that W reads, before or after its turn. -/
theorem writerLearnsNothingPrivate : Obligations.WriterLearnsNothingPrivate := by
  intro s t h
  obtain ⟨w, s', hs, ht⟩ := turnW_blindW t s
  rw [← h.eq_hideFromW] at ht
  exact ⟨s', hideFromW w s', hs, ht, agreeForW_hideFromW w s'⟩

end Sys2Proof.Machine
end

section
/-! PROOF. The decoder: when each format reads a command, and the round trip with the encoder (30_encoding.md R101 to
R105, R124). -/

namespace Sys2Proof

open Machine (wrInstr)

/-! ### Operand words -/

/-- A stream starts with a 64-bit operand exactly where it has four words (R102). -/
theorem exists_words64_iff (ws : List Word) : (∃ rest v, ws = words64 v ++ rest) ↔ 4 ≤ ws.length := by
  constructor
  · rintro ⟨rest, v, rfl⟩
    simp [words64]
  · rcases ws with _ | ⟨x0, _ | ⟨x1, _ | ⟨x2, _ | ⟨x3, rest⟩⟩⟩⟩ <;> intro h
    · simp at h
    · simp at h
    · simp at h
    · simp at h
    · exact ⟨rest, join64 x0 x1 x2 x3, by rw [words64_join]; rfl⟩

/-- Likewise with a 32-bit operand before it: six words. -/
theorem exists_words32_words64_iff (ws : List Word) :
    (∃ rest u v, ws = words32 u ++ (words64 v ++ rest)) ↔ 6 ≤ ws.length := by
  constructor
  · rintro ⟨rest, u, v, rfl⟩
    simp [words32, words64]
  · rcases ws with _ | ⟨x0, _ | ⟨x1, ws⟩⟩ <;> intro h
    · simp at h
    · simp at h
    · obtain ⟨rest, v, rfl⟩ := (exists_words64_iff ws).2 (by simpa using h)
      exact ⟨rest, join32 x0 x1, v, by rw [words32_join]; rfl⟩

/-! ### What each format reads (R103, R105) -/

section

variable {k : ChKind} {h : Word} {i j : Instr} {ws rest : List Word}

theorem decodeZ_ok_iff : decodeZ h i ws = .ok (j, rest) ↔ n12Of h = 0 ∧ j = i ∧ rest = ws := by
  unfold decodeZ
  split <;> simp_all [eq_comm]

/-- `WR` reads what the facade writes to the register selected. -/
theorem decodeWr_ok_iff :
    decodeWr k h ws = .ok (j, rest) ↔ wrInstr k (aOf h).toNat (bOf h) = some j ∧ rest = ws := by
  simp only [decodeWr, wrInstr]
  generalize (aOf h).toNat = n
  match n with
  | 0 | 1 | 2 => cases k <;> simp [eq_comm]
  | 3 | 4 => simp [eq_comm]
  | _ + 5 => simp

theorem decodeRd_ok_iff :
    decodeRd h ws = .ok (j, rest) ↔
      (aOf h).toNat ≤ 4 ∧ bOf h = 0 ∧ j = .rd ((aOf h).extractLsb' 0 3) ∧ rest = ws := by
  unfold decodeRd
  split_ifs <;> simp_all [eq_comm]

/-- Reading one 64-bit operand (R123), which `INS` and `UPD` share. -/
def read64 (f : Cycle → Instr) (ws : List Word) : Except Illegal (Instr × List Word) :=
  match ws with
  | x0 :: x1 :: x2 :: x3 :: rest => .ok (f (join64 x0 x1 x2 x3), rest)
  | _ => .error .truncated

theorem read64_ok_iff {f : Cycle → Instr} :
    read64 f ws = .ok (j, rest) ↔ ∃ v, ws = words64 v ++ rest ∧ j = f v := by
  constructor
  · intro hd
    unfold read64 at hd
    split at hd
    · cases hd
      exact ⟨_, by rw [words64_join]; rfl, rfl⟩
    · cases hd
  · rintro ⟨v, rfl, rfl⟩
    simp [read64, words64]

theorem decodeIns_eq : decodeIns h ws = if aOf h = 0 then read64 (.ins (bOf h)) ws else .error .nonZeroField := rfl

theorem decodeUpd_eq : decodeUpd h ws = if n12Of h = 0 then read64 .upd ws else .error .nonZeroField := rfl

theorem decodeIns_ok_iff :
    decodeIns h ws = .ok (j, rest) ↔ aOf h = 0 ∧ ∃ c, ws = words64 c ++ rest ∧ j = .ins (bOf h) c := by
  rw [decodeIns_eq]
  split <;> simp_all [read64_ok_iff]

theorem decodeUpd_ok_iff :
    decodeUpd h ws = .ok (j, rest) ↔ n12Of h = 0 ∧ ∃ ref, ws = words64 ref ++ rest ∧ j = .upd ref := by
  rw [decodeUpd_eq]
  split <;> simp_all [read64_ok_iff]

theorem decodeRnd_ok_iff :
    decodeRnd h ws = .ok (j, rest) ↔
      ∃ fs ref, ws = words32 fs ++ (words64 ref ++ rest) ∧ j = .rnd (n12Of h) fs ref := by
  unfold decodeRnd
  constructor
  · intro hd
    split at hd
    · cases hd
      exact ⟨_, _, by rw [words32_join, words64_join]; rfl, rfl⟩
    · cases hd
  · rintro ⟨fs, ref, rfl, rfl⟩
    simp [words32, words64]

theorem decodeWrw_ok_iff :
    decodeWrw k h ws = .ok (j, rest) ↔ k = .wave ∧ j = .wrw (aOf h) (bOf h) ∧ rest = ws := by
  cases k <;> simp [decodeWrw, eq_comm]

theorem decodeRdw_ok_iff :
    decodeRdw k h ws = .ok (j, rest) ↔ k = .wave ∧ bOf h = 0 ∧ j = .rdw (aOf h) ∧ rest = ws := by
  cases k
  · simp [decodeRdw]
  · simp only [decodeRdw]
    split <;> simp_all [eq_comm]

end

/-! ### Heads from their fields -/

theorem headN_eq {h : Word} {op : BitVec 4} {n : BitVec 12} (hop : (opOf h).toNat = op.toNat) (hn : n12Of h = n) :
    h = headN op n := by
  obtain rfl := BitVec.eq_of_toNat_eq hop
  rw [← hn, headN_fields]

theorem headOf_eq {h : Word} {op a : BitVec 4} {b : Byte} (hop : (opOf h).toNat = op.toNat) (ha : aOf h = a)
    (hb : bOf h = b) : h = headOf op a b := by
  obtain rfl := BitVec.eq_of_toNat_eq hop
  rw [← ha, ← hb, headOf_fields]

/-- A select that exists fits the three bits that `RD` cuts from its field of four. -/
theorem extract_sel_toNat {a : BitVec 4} (h : a.toNat ≤ 4) : (a.extractLsb' 0 3).toNat = a.toNat := by
  rw [BitVec.extractLsb'_toNat]
  exact Nat.mod_eq_of_lt (by omega)

theorem zeroExtend_extract_sel {a : BitVec 4} (h : a.toNat ≤ 4) : (a.extractLsb' 0 3).zeroExtend 4 = a := by
  apply BitVec.eq_of_toNat_eq
  rw [BitVec.toNat_setWidth, extract_sel_toNat h]
  exact Nat.mod_eq_of_lt a.isLt

/-! ### Commands of a kind -/

theorem wellFormed_iff (k : ChKind) (i : Instr) :
    i.wellFormed k = true ↔ i.selExists = true ∧ ∀ k', i.onlyKind = some k' → k' = k := by
  simp only [Instr.wellFormed, Bool.and_eq_true, Instr.kindFits]
  cases i.onlyKind <;> simp

/-- The register writes of a kind are its commands with opcode 1. -/
theorem encode_of_wrInstr {k : ChKind} {n : Nat} {d : Byte} {i : Instr} (hi : wrInstr k n d = some i) :
    encode i = [headOf 1 (BitVec.ofNat 4 n) d] ∧ i.wellFormed k = true := by
  match n, k with
  | 0, .square | 0, .wave | 1, .square | 1, .wave | 2, .square | 2, .wave | 3, _ | 4, _ =>
    cases hi
    exact ⟨rfl, rfl⟩
  | _ + 5, _ => simp [wrInstr] at hi

theorem decode_wr {k : ChKind} {a : BitVec 4} {d : Byte} {i : Instr} (hi : wrInstr k a.toNat d = some i)
    (ws : List Word) : decode k (headOf 1 a d :: ws) = .ok (i, ws) := by
  simp [decode, decodeWr_ok_iff, hi]

/-! ### The round trip -/

/-- The words of a command of the kind decode to it, each format by its own law. -/
theorem decode_encode {k : ChKind} {i : Instr} (hi : i.wellFormed k = true) (rest : List Word) :
    decode k (encode i ++ rest) = .ok (i, rest) := by
  obtain ⟨hsel, hkind⟩ := (wellFormed_iff k i).1 hi
  cases i with
  | nop | envclk | cyc | rst => simp [encode, decode, decodeZ_ok_iff]
  | emu n | fdivn n | oclr n => simp [encode, decode]
  | wrSwp d | wrLen d | wrEnv d =>
    obtain rfl := hkind .square rfl
    exact decode_wr rfl rest
  | wrWon d | wrWlen d | wrWvol d =>
    obtain rfl := hkind .wave rfl
    exact decode_wr rfl rest
  | wrFlo d | wrFhi d => exact decode_wr rfl rest
  | rd sel =>
    have hle : (sel.setWidth 4).toNat ≤ 4 := by
      rw [BitVec.toNat_setWidth]
      exact (Nat.mod_le _ _).trans (of_decide_eq_true hsel)
    simpa [encode, decode, decodeRd_ok_iff, BitVec.extractLsb'_setWidth_of_le, BitVec.extractLsb'_eq_self] using hle
  | ins amp c => simp [encode, decode, decodeIns_ok_iff]
  | upd ref => simp [encode, decode, decodeUpd_ok_iff]
  | rnd frames fs ref => simp [encode, decode, decodeRnd_ok_iff]
  | wrw idx d =>
    obtain rfl := hkind .wave rfl
    simp [encode, decode, decodeWrw_ok_iff]
  | rdw idx =>
    obtain rfl := hkind .wave rfl
    simp [encode, decode, decodeRdw_ok_iff]

/-- What `decode` answers a command for: its encoding, read by the format of the opcode. -/
theorem decode_ok {k : ChKind} {ws rest : List Word} {i : Instr} (hd : decode k ws = .ok (i, rest)) :
    ws = encode i ++ rest ∧ i.wellFormed k = true := by
  cases ws with
  | nil => cases hd
  | cons h ws =>
    simp only [decode] at hd
    split at hd
    case h_1 hop | h_4 hop | h_5 hop | h_14 hop =>
      obtain ⟨hn, rfl, rfl⟩ := decodeZ_ok_iff.1 hd
      exact ⟨congrArg₂ List.cons (headN_eq hop hn) rfl, rfl⟩
    case h_2 hop =>
      obtain ⟨hwr, rfl⟩ := decodeWr_ok_iff.1 hd
      obtain ⟨henc, hwf⟩ := encode_of_wrInstr hwr
      refine ⟨?_, hwf⟩
      rw [henc, BitVec.ofNat_toNat]
      exact congrArg₂ List.cons (headOf_eq hop (BitVec.setWidth_eq _).symm rfl) rfl
    case h_3 hop =>
      obtain ⟨ha, hb, rfl, rfl⟩ := decodeRd_ok_iff.1 hd
      refine ⟨congrArg₂ List.cons (headOf_eq hop (zeroExtend_extract_sel ha).symm hb) rfl, ?_⟩
      exact (wellFormed_iff _ _).2 ⟨decide_eq_true ((extract_sel_toNat ha).trans_le ha), fun _ h => nomatch h⟩
    case h_6 hop | h_7 hop | h_13 hop =>
      cases hd
      exact ⟨congrArg₂ List.cons (headN_eq hop rfl) rfl, rfl⟩
    case h_8 hop =>
      obtain ⟨ha, c, rfl, rfl⟩ := decodeIns_ok_iff.1 hd
      exact ⟨congrArg₂ List.cons (headOf_eq hop ha rfl) rfl, rfl⟩
    case h_9 hop =>
      obtain ⟨hn, ref, rfl, rfl⟩ := decodeUpd_ok_iff.1 hd
      exact ⟨congrArg₂ List.cons (headN_eq hop hn) rfl, rfl⟩
    case h_10 hop =>
      obtain ⟨fs, ref, rfl, rfl⟩ := decodeRnd_ok_iff.1 hd
      exact ⟨congrArg₂ List.cons (headN_eq hop rfl) rfl, rfl⟩
    case h_11 hop =>
      obtain ⟨rfl, rfl, rfl⟩ := decodeWrw_ok_iff.1 hd
      exact ⟨congrArg₂ List.cons (headOf_eq hop rfl rfl) rfl, rfl⟩
    case h_12 hop =>
      obtain ⟨rfl, hb, rfl, rfl⟩ := decodeRdw_ok_iff.1 hd
      exact ⟨congrArg₂ List.cons (headOf_eq hop rfl hb) rfl, rfl⟩
    case h_15 => cases hd

/-- Settles O2, by the kinds of operand a command carries. -/
theorem decodeOfEncode : Obligations.DecodeOfEncode := fun _ _ rest hi => decode_encode hi rest

/-- Settles O3, by the opcode that was read. -/
theorem encodeOfDecode : Obligations.EncodeOfDecode := fun _ _ _ _ hd => decode_ok hd

/-- Settles O1: the decoder run on the words. -/
theorem encodedWordsDecode : Obligations.EncodedWordsDecode := by
  unfold Obligations.EncodedWordsDecode
  repeat' apply And.intro
  all_goals rfl

end Sys2Proof
end

section
/-! PROOF. Which heads are commands: the rows of the opcode map, the illegal ranges, length and ports (30_encoding.md
R105, R118 to R120, R127). -/

namespace Sys2Proof

open Machine (wrInstr illegalHead)

/-- The head and the kind of a legal command, whatever follows: what R105 asks of the fields of each opcode. -/
def legalHead (k : ChKind) (h : Word) : Prop :=
  match (opOf h).toNat with
  | 0x0 | 0x3 | 0x4 | 0x8 | 0xF => n12Of h = 0
  | 0x1 => (aOf h).toNat ≤ 4
  | 0x2 => (aOf h).toNat ≤ 4 ∧ bOf h = 0
  | 0x5 | 0x6 | 0x9 | 0xC => True
  | 0x7 => aOf h = 0
  | 0xA => k = .wave
  | 0xB => k = .wave ∧ bOf h = 0
  | _ => False

theorem wrInstr_isSome_iff (k : ChKind) (n : Nat) (d : Byte) : (∃ i, wrInstr k n d = some i) ↔ n ≤ 4 := by
  match n, k with
  | 0, .square | 0, .wave | 1, .square | 1, .wave | 2, .square | 2, .wave | 3, _ | 4, _ => simp [wrInstr]
  | _ + 5, _ => simp [wrInstr]

/-- A head and the words after it are a command exactly where the head is legal and its extension words are there. -/
theorem decode_isOk_iff (k : ChKind) (h : Word) (ws : List Word) :
    (∃ i rest, decode k (h :: ws) = .ok (i, rest)) ↔ legalHead k h ∧ extWords (opOf h) ≤ ws.length := by
  simp only [decode, legalHead, extWords]
  split
  case h_1 hop | h_4 hop | h_5 hop | h_14 hop => simp [hop, decodeZ_ok_iff]
  case h_2 hop => simp [hop, decodeWr_ok_iff, wrInstr_isSome_iff]
  case h_3 hop => simp [hop, decodeRd_ok_iff]
  case h_6 hop | h_7 hop | h_13 hop => simp [hop]
  case h_8 hop => simp [hop, decodeIns_ok_iff, ← exists_words64_iff]
  case h_9 hop => simp [hop, decodeUpd_ok_iff, ← exists_words64_iff]
  case h_10 hop => simp [hop, decodeRnd_ok_iff, ← exists_words32_words64_iff]
  case h_11 hop => simp [hop, decodeWrw_ok_iff]
  case h_12 hop => simp [hop, decodeRdw_ok_iff]
  case h_15 => simp

/-- The ranges that R118 to R120 list are outside what the fields of a legal head allow. -/
theorem not_legalHead_of_illegalHead {k : ChKind} {h : Word} (hi : illegalHead k h) : ¬ legalHead k h := by
  have hop := opOf_toNat h
  have ha := aOf_toNat h
  have hb := bOf_toNat h
  have hn := n12Of_toNat h
  intro hl
  simp only [legalHead, ← BitVec.toNat_inj, BitVec.ofNat_eq_ofNat, BitVec.toNat_ofNat] at hl
  unfold illegalHead at hi
  split at hl
  case h_13 | h_14 =>
    obtain rfl : k = .wave := by tauto
    simp only [reduceCtorEq, false_and, false_or, true_and] at hi hl
    omega
  case h_15 => exact hl
  all_goals omega

/-! ### The rows -/

/-- Selecting a row, field by field. -/
theorem rowSelects_iff (p : OpRow) (h : Word) :
    rowSelects p h = true ↔
      opOf h &&& opOf p.mask = opOf p.pattern ∧ aOf h &&& aOf p.mask = aOf p.pattern ∧
        bOf h &&& bOf p.mask = bOf p.pattern := by
  have hop : opOf (h &&& p.mask) = opOf h &&& opOf p.mask := BitVec.extractLsb'_and
  have ha : aOf (h &&& p.mask) = aOf h &&& aOf p.mask := BitVec.extractLsb'_and
  have hb : bOf (h &&& p.mask) = bOf h &&& bOf p.mask := BitVec.extractLsb'_and
  rw [rowSelects, decide_eq_true_iff, ← hop, ← ha, ← hb]
  refine ⟨fun e => by rw [e]; exact ⟨rfl, rfl, rfl⟩, fun ⟨hop, ha, hb⟩ => ?_⟩
  rw [← headOf_fields (h &&& p.mask), hop, ha, hb, headOf_fields]

/-- Two rows of a kind differ in a bit that both of them fix. -/
theorem rowsFor_differ (k : ChKind) :
    (rowsFor k).Pairwise fun p q => p.pattern &&& q.mask ≠ q.pattern &&& p.mask := by
  cases k <;> decide

theorem row_unique {k : ChKind} {h : Word} {p q : OpRow} (hp : p ∈ rowsFor k) (hq : q ∈ rowsFor k)
    (hph : rowSelects p h = true) (hqh : rowSelects q h = true) : p = q := by
  by_contra hne
  have hsymm : Std.Symm fun p q : OpRow => p.pattern &&& q.mask ≠ q.pattern &&& p.mask := ⟨fun _ _ h => h.symm⟩
  refine (rowsFor_differ k).forall hp hq hne ?_
  rw [← of_decide_eq_true hph, ← of_decide_eq_true hqh, BitVec.and_assoc, BitVec.and_assoc, BitVec.and_comm p.mask]

@[simp] theorem opOf_ofNat (n : Nat) : opOf (BitVec.ofNat 16 n) = BitVec.ofNat 4 (n / 4096) := by
  apply BitVec.eq_of_toNat_eq
  rw [opOf_toNat, BitVec.toNat_ofNat, BitVec.toNat_ofNat]
  omega

@[simp] theorem aOf_ofNat (n : Nat) : aOf (BitVec.ofNat 16 n) = BitVec.ofNat 4 (n / 256) := by
  apply BitVec.eq_of_toNat_eq
  rw [aOf_toNat, BitVec.toNat_ofNat, BitVec.toNat_ofNat]
  omega

@[simp] theorem bOf_ofNat (n : Nat) : bOf (BitVec.ofNat 16 n) = BitVec.ofNat 8 n := by
  apply BitVec.eq_of_toNat_eq
  rw [bOf_toNat, BitVec.toNat_ofNat, BitVec.toNat_ofNat]
  omega

theorem n12Of_eq_zero_iff (h : Word) : n12Of h = 0 ↔ aOf h = 0 ∧ bOf h = 0 := by
  simp only [← BitVec.toNat_inj, n12Of_toNat, aOf_toNat, bOf_toNat, BitVec.ofNat_eq_ofNat, BitVec.toNat_ofNat]
  omega

/-- The mask of a field that a row fixes whole. -/
@[simp] theorem and_mask4 (x : BitVec 4) : x &&& 15#4 = x := BitVec.and_allOnes

@[simp] theorem and_mask8 (x : BitVec 8) : x &&& 255#8 = x := BitVec.and_allOnes

/-- The selects that exist, one row of `WR` each. -/
theorem sel_le_four_iff :
    ∀ a : BitVec 4, a.toNat ≤ 4 ↔ a = 0#4 ∨ a = 1#4 ∨ a = 2#4 ∨ a = 3#4 ∨ a = 4#4 := by
  decide

/-- A select that exists passes the mask of `RD`, which looks at its top bit only. -/
theorem sel_and_mask : ∀ a : BitVec 4, a.toNat ≤ 4 → a &&& 8#4 = 0#4 := by
  decide

theorem opOf_eq_iff {h : Word} {n : Nat} (hn : n < 16) : opOf h = BitVec.ofNat 4 n ↔ (opOf h).toNat = n := by
  rw [← BitVec.toNat_inj, BitVec.toNat_ofNat, Nat.mod_eq_of_lt hn]

/-- A row selects a head, no dead one of `RD`, exactly where the head is legal: opcode by opcode, the rows that have it
are compared with what is asked of the other fields. -/
theorem selects_row_iff_legalHead (k : ChKind) (h : Word) :
    ((∃ p, p ∈ rowsFor k ∧ rowSelects p h = true) ∧ isDeadRd h = false) ↔ legalHead k h := by
  rw [← List.any_eq_true, rowsFor, List.any_filter]
  simp only [opcodeRows, List.any_cons, List.any_nil, rowFits, isDeadRd, legalHead]
  split
  case h_1 e | h_2 e | h_3 e | h_4 e | h_5 e =>
    simpa [rowSelects_iff, opOf_eq_iff, e] using (n12Of_eq_zero_iff h).symm
  case h_6 e => cases k <;> simp [rowSelects_iff, opOf_eq_iff, e, sel_le_four_iff]
  case h_7 e =>
    simp +contextual [rowSelects_iff, opOf_eq_iff, e, sel_and_mask, iff_def]
  case h_8 e | h_9 e | h_10 e | h_11 e | h_12 e => simp [rowSelects_iff, opOf_eq_iff, e]
  case h_13 e | h_14 e => cases k <;> simp [rowSelects_iff, opOf_eq_iff, e]
  case h_15 =>
    simp only [imp_false] at *
    obtain e | e : (opOf h).toNat = 13 ∨ (opOf h).toNat = 14 := by omega
    · simp [rowSelects_iff, opOf_eq_iff, e]
    · simp [rowSelects_iff, opOf_eq_iff, e]

/-! ### Length and ports (R102; 60_exceptions.md R320) -/

open Laws.CommandLength in
/-- The length of a command follows from its opcode, for every transaction. -/
theorem commandLength : ∀ i : Instr, Statement i
  | .nop => nop
  | .wrSwp d => wrSwp d
  | .wrWon d => wrWon d
  | .wrLen d => wrLen d
  | .wrWlen d => wrWlen d
  | .wrEnv d => wrEnv d
  | .wrWvol d => wrWvol d
  | .wrFlo d => wrFlo d
  | .wrFhi d => wrFhi d
  | .rd sel => rd sel
  | .envclk => envclk
  | .cyc => cyc
  | .emu n => emu n
  | .fdivn n => fdivn n
  | .ins amp c => ins amp c
  | .upd ref => upd ref
  | .rnd frames fs ref => rnd frames fs ref
  | .wrw idx d => wrw idx d
  | .rdw idx => rdw idx
  | .oclr frames => oclr frames
  | .rst => rst

/-- The agents whose ports take an opcode. -/
def owners (op : BitVec 4) : List Agent :=
  match op.toNat with
  | 0x0 => [.w, .r]
  | 0x8 | 0x9 | 0xC => [.r]
  | 0xF => [.host]
  | _ => [.w]

/-- Ownership is a matter of the opcode. -/
theorem owns_eq (a : Agent) (i : Instr) : a.owns i = (owners (opOf ((encode i).headD 0))).contains a := by
  cases i <;> simp only [encode, List.headD_cons, opOf_headN, opOf_headOf] <;> cases a <;> rfl

/-- Every row fixes the opcode, and with it the length and the ports. -/
theorem opcodeRows_fields {p : OpRow} (hp : p ∈ opcodeRows) :
    opOf p.mask = 15 ∧ p.ext = extWords (opOf p.pattern) ∧ p.ports = owners (opOf p.pattern) := by
  revert p
  simp [opcodeRows, extWords, owners]

theorem row_length_ports {k : ChKind} {h : Word} {p : OpRow} (hp : p ∈ rowsFor k) (hs : rowSelects p h = true) :
    p.ext = extWords (opOf h) ∧ p.ports = owners (opOf h) := by
  obtain ⟨hmask, hext, hports⟩ := opcodeRows_fields (List.mem_of_mem_filter hp)
  have hop : opOf h = opOf p.pattern := by
    have := ((rowSelects_iff p h).1 hs).1
    rwa [hmask, BitVec.ofNat_eq_ofNat, and_mask4] at this
  rw [hop]
  exact ⟨hext, hports⟩

/-- Settles O4: distinct rows of a kind differ in a bit both fix, legality is read off the fields, and a row fixes the
opcode, which gives length and ports. -/
theorem opcodeMapDecides : Obligations.OpcodeMapDecides := by
  refine ⟨fun k h p q => row_unique, fun k h ws hlen => ?_, fun k h ws rest i p hd hp hs => ?_⟩
  · rw [decode_isOk_iff, selects_row_iff_legalHead]
    exact and_iff_left hlen
  · obtain ⟨hext, hports⟩ := row_length_ports hp hs
    obtain ⟨hi, -⟩ := decode_ok hd
    obtain ⟨h', xs, henc, hlen⟩ := commandLength i
    rw [henc, List.cons_append, List.cons.injEq] at hi
    obtain ⟨rfl, rfl⟩ := hi
    rw [hext, hports, ← hlen]
    exact ⟨by simp, by simp, fun a => by rw [owns_eq, henc]; rfl⟩

end Sys2Proof
end

section
/-! PROOF. A command that is illegal, on the wrong port or cut off raises `ILLEGAL_CMD` and changes nothing else
(30_encoding.md R118 to R123; 60_exceptions.md R302). -/

namespace Sys2Proof.Machine

/-- The host's port too starts what is not `RST`. -/
theorem agentTurn_notRst {a : Agent} {s : State} {h : Word} {ws : List Word} (hs : s.Running) (hfree : s.PortFree a)
    (hw : s.portWords a = h :: ws) (hne : a = .host → h ≠ 0xF000) : agentTurn a s = startCommand a s := by
  by_cases ha : a = .host
  · subst ha
    have hrun : s.halted = false := (not_halted_iff s).2 hs
    simp only [agentTurn, turnHost, hw, if_neg (hne rfl), hrun, Bool.false_eq_true, if_false]
  · exact agentTurn_free ha hs hfree

/-- Words that the port does not take as a command (60_exceptions.md R302). -/
theorem agentTurn_illegal {a : Agent} {s : State} {h : Word} {ws : List Word} (hs : s.Running) (hfree : s.PortFree a)
    (hw : s.portWords a = h :: ws) (hbad : ∀ i rest, decodeOn s.cfg.kind a (h :: ws) ≠ .ok (i, rest)) :
    agentTurn a s = .next { dropCommand a s with fault := .illegalCmd } := by
  have hne : a = .host → h ≠ 0xF000 := by
    rintro rfl rfl
    exact hbad .rst ws rfl
  have hrun : (dropCommand a s).fault = .none := (setPort_fault _ _ _).trans hs
  rw [agentTurn_notRst hs hfree hw hne, ← raise_running _ _ hrun]
  rcases startCommand_cases a s with ⟨hnil, -⟩ | ⟨i, rest, hd, -⟩ | ⟨e, -, -, hstart⟩
  · cases hw.symm.trans hnil
  · exact absurd (hw ▸ hd) (hbad i rest)
  · exact hstart

/-- Words that decode to no command are illegal on every port. -/
theorem agentTurn_undecoded {a : Agent} {s : State} {h : Word} {ws : List Word} (hs : s.Running) (hfree : s.PortFree a)
    (hw : s.portWords a = h :: ws) (hbad : ¬ (legalHead s.cfg.kind h ∧ extWords (opOf h) ≤ ws.length)) :
    agentTurn a s = .next { dropCommand a s with fault := .illegalCmd } :=
  agentTurn_illegal hs hfree hw fun i rest hd => hbad ((decode_isOk_iff _ _ _).1 ⟨i, rest, (decodeOn_ok hd).1⟩)

/-- Settles O5: an illegal head decodes to no command, whatever follows it. -/
theorem illegalHeadIsRaised : Obligations.IllegalHeadIsRaised := by
  intro s a h ws hs hfree hw hill
  exact agentTurn_undecoded hs hfree hw fun ⟨hlegal, _⟩ => not_legalHead_of_illegalHead hill hlegal

/-- Settles O6: what the port decodes to is not owned by its agent. -/
theorem wrongPortIsRaised : Obligations.WrongPortIsRaised := by
  intro s a i rest hs hfree hd howns
  cases hw : s.portWords a with
  | nil =>
    rw [hw] at hd
    cases hd
  | cons h ws =>
    rw [hw] at hd
    refine agentTurn_illegal hs hfree hw fun j rest' hj => ?_
    obtain ⟨hdj, hown⟩ := decodeOn_ok hj
    cases hd.symm.trans hdj
    rw [howns] at hown
    cases hown

/-- Settles O7: too few words follow the head, and all that is left goes with it. -/
theorem truncatedCommandIsRaised : Obligations.TruncatedCommandIsRaised := by
  intro s a h ws hs hfree hw hshort
  have hdrop : dropCommand a s = setPort a [] s := by
    rw [dropCommand, hw, afterCommand, List.drop_eq_nil_of_le hshort.le]
  rw [← hdrop]
  exact agentTurn_undecoded hs hfree hw fun ⟨_, hlen⟩ => absurd hlen hshort.not_ge

end Sys2Proof.Machine
end

section
/-! PROOF. The commands that change little or nothing (30_encoding.md R121). -/

namespace Sys2Proof.Machine

/-- A transaction that changes nothing answers the state it got, running or halted. -/
theorem transact_of_eq_self {f : State → State} {s : State} (h : f s = s) : transact f s = .next s := by
  rw [transact, h, ite_self]

theorem cycOverflows_zero (s : State) : s.cycOverflows 0 = false := by
  have hlt := s.cyc.toInt_lt
  refine decide_eq_false ?_
  simp only [maxI64]
  omega

theorem advanceCyc_zero (s : State) : advanceCyc 0 s = s := by
  simp [advanceCyc]

/-- A batch of no ticks: `fired` is 0 (41 R160). -/
theorem batch_zero (s : State) : batch 0 s = setFired false s := by
  simp [batch, cycOverflows_zero, advanceCyc_zero, ticks]

/-- A render of no frames is `BAD_ARG` for a rate of 0 alone (44 R241). -/
theorem badRender_zero {s : State} {fs : BitVec 32} (ref : Cycle) (hfs : fs ≠ 0) : s.badRender 0 fs ref = false := by
  simpa [State.badRender] using hfs

theorem renderStep_at_end {r : RenderRun} (h : r.frames ≤ r.k) (s : State) : renderStep r s = renderEnd r s :=
  if_neg h.not_gt

/-- `RND 0` begins and ends as `UPD` does, its cursor `rc` apart (44 R234, R243). -/
theorem renderOfNoFrames (s : State) (fs : BitVec 32) (ref : Cycle) (hs : s.Running) (hr : s.render = none)
    (hfs : fs ≠ 0) :
    ∃ (t u : State) (rc : Nat), exec (.rnd 0 fs ref) s = .next t ∧ exec (.upd ref) s = .next u ∧
      t.render = some ⟨0, 0, fs, ref⟩ ∧ renderStep ⟨0, 0, fs, ref⟩ t = { u with rc := rc } := by
  have hbegin : beginRender 0 fs ref s = { updateQueue ref s with
      rc := (updateQueue ref s).oldest, render := some ⟨0, 0, fs, ref⟩ } := by
    simp [beginRender, badRender_zero ref hfs]
  have hrender : (updateQueue ref s).render = none := by
    rw [updateQueue_frame]
    exact hr
  refine ⟨_, _, (updateQueue ref s).oldest, execRnd_eq 0 fs ref s hs, execUpd_eq ref s hs, ?_, ?_⟩
  · exact congrArg State.render hbegin
  · rw [renderStep_at_end le_rfl]
    simp only [renderEnd, BitVec.ofNat_eq_ofNat, BitVec.toNat_zero, hbegin, Nat.add_zero]
    rw [← hrender]

/-- Settles O18: what is done zero times is not done. -/
theorem commandsThatChangeLittle : Obligations.CommandsThatChangeLittle := by
  refine ⟨fun s => ?_, fun s => ?_, fun s hs => ?_, fun s hs => ?_, renderOfNoFrames⟩
  · exact transact_of_eq_self (f := fun s => s) rfl
  · exact transact_of_eq_self (f := clearFrames 0) rfl
  · exact transact_running _ s hs
  · exact (transact_running _ s hs).trans (congrArg _ (batch_zero s))

end Sys2Proof.Machine
end

section
/-! PROOF. The frequency writes: period, trigger and length marker (41_frequency_divider.md R151, R155, R157). -/

namespace Sys2Proof.Machine

/-- `period` in unbounded integers of the two register bytes that make up the code (41 R151, 10_state.md R47). -/
theorem recomputePeriod_eq (s : State) :
    recomputePeriod s = { s with
      period := BitVec.ofNat 14 ((2048 - (s.reg[4].toNat % 8 * 256 + s.reg[3].toNat)) * fdivMult s.cfg.kind) } := by
  rw [recomputePeriod, periodOf, code_toNat]

/-- A trigger loads `timer` and, in a `SQUARE` instance, restarts the envelope (41 R152, 42 R183). -/
theorem trigger_eq (s : State) :
    trigger s = { s with
      timer := s.period
      volume := if s.cfg.kind = .square then s.envInit else s.volume
      envCnt := if s.cfg.kind = .square then 0 else s.envCnt } := by
  unfold trigger
  dsimp only
  split <;> rename_i hk <;> simp [hk, reloadEnvelope, State.envInit]

theorem markLength_eq (d : Byte) (s : State) :
    markLength d s = { s with ni := { s.ni with length := s.ni.length || fhiLenEn d } } := by
  unfold markLength
  split <;> rename_i h <;> simp [h]

/-- Bit 7 of a byte, as a number (10_state.md R45). -/
theorem fhiInit_iff (d : Byte) : fhiInit d = true ↔ 128 ≤ d.toNat := by
  have := d.isLt
  simp only [fhiInit, BitVec.getLsbD, Nat.testBit_eq_decide_div_mod_eq, decide_eq_true_eq]
  omega

/-- Bit 6 of a byte, as a number (10_state.md R45). -/
theorem fhiLenEn_eq (d : Byte) : fhiLenEn d = decide (d.toNat / 64 % 2 = 1) := by
  simp [fhiLenEn, BitVec.getLsbD, Nat.testBit_eq_decide_div_mod_eq]

/-- The upper four bits of the envelope register, as a number (10_state.md R43). -/
theorem envInit_eq (s : State) : s.envInit = BitVec.ofNat 4 (s.reg[2].toNat / 16) := by
  simp [State.envInit, BitVec.extractLsb', Nat.shiftRight_eq_div_pow]

/-- Settles O19: `WR FLO` is a register write and the period of the code it makes. -/
theorem writeFrequencyLow : Obligations.WriteFrequencyLow := by
  intro s d hs
  have hwrite : exec (.wrFlo d) s = .next (recomputePeriod (setReg 3 d s)) :=
    transact_running (fun s => recomputePeriod (setReg 3 d s)) s hs
  rw [hwrite, recomputePeriod_eq]
  simp [setReg]

/-- Settles O20: `WR FHI` is a register write, the period of its code, the length marker and perhaps a trigger. -/
theorem writeFrequencyHigh : Obligations.WriteFrequencyHigh := by
  intro s d hs p
  have hwrite : exec (.wrFhi d) s = .next (writeFhi d s) := transact_running _ s hs
  rw [hwrite, writeFhi, markLength_eq, recomputePeriod_eq, fhiLenEn_eq]
  by_cases hinit : 128 ≤ d.toNat
  · rw [if_pos ((fhiInit_iff d).2 hinit), trigger_eq, envInit_eq]
    simp [hinit, p, setReg]
  · rw [if_neg fun h => hinit ((fhiInit_iff d).1 h)]
    simp [hinit, p, setReg]

/-- What `WR FHI` leaves as period belongs to the code it leaves, trigger or not. -/
theorem writeFhi_period (d : Byte) (s : State) : (writeFhi d s).period = periodOf s.cfg.kind (writeFhi d s).code := by
  unfold writeFhi
  dsimp only
  split
  · simp [trigger_eq, State.code]
  · simp [State.code]

/-- A code has 11 bits, so its period lies between the multiplier and 2048 times it (41 R163). -/
theorem periodOf_range (k : ChKind) (code : BitVec 11) :
    fdivMult k ≤ (periodOf k code).toNat ∧ (periodOf k code).toNat ≤ 2048 * fdivMult k := by
  have hcode := code.isLt
  rw [periodOf_toNat]
  exact ⟨Nat.le_mul_of_pos_left _ (by omega), Nat.mul_le_mul_right _ (Nat.sub_le _ _)⟩

/-- Settles O21: both writes leave the period of the code they leave. -/
theorem periodFollowsCode : Obligations.PeriodFollowsCode := by
  intro s t d hs h
  have hperiod : t.period = periodOf s.cfg.kind t.code := by
    rcases h with h | h
    · cases (transact_running (fun s => recomputePeriod (setReg 3 d s)) s hs).symm.trans h
      rfl
    · cases (transact_running (writeFhi d) s hs).symm.trans h
      exact writeFhi_period d s
  rw [hperiod]
  exact ⟨code_toNat t, periodOf_toNat _ _, periodOf_range _ _⟩

end Sys2Proof.Machine
end

section
/-! PROOF. Many ticks of the frequency divider in closed form (41_frequency_divider.md R160, R161). -/

namespace Sys2Proof.Machine

theorem ticks_succ (p : BitVec 14) (n : Nat) (r : TickResult) :
    ticks p (n + 1) r = ticks p n ⟨(tick p r.timer).timer, r.fired || (tick p r.timer).fired⟩ := rfl

theorem fireCount_succ (p : BitVec 14) (n : Nat) (timer : BitVec 14) :
    fireCount p (n + 1) timer = (if (tick p timer).fired = true then 1 else 0) + fireCount p n (tick p timer).timer := rfl

/-- A divider that is off does nothing (41 R153). -/
theorem ticks_off (n : Nat) (t : BitVec 14) (f : Bool) : ticks 0 n ⟨t, f⟩ = ⟨t, f⟩ ∧ fireCount 0 n t = 0 := by
  have htick : tick 0 t = ⟨t, false⟩ := by simp [tick]
  induction n with
  | zero => exact ⟨rfl, rfl⟩
  | succ n ih =>
    rw [ticks_succ, fireCount_succ, htick, Bool.or_false]
    simpa using ih

/-- `n` ticks end before the first fire, `max t 1` ticks from the start. -/
structure QuietTicks (p t : BitVec 14) (n : Nat) (f : Bool) : Prop where
  timer : (ticks p n ⟨t, f⟩).timer.toNat = t.toNat - n
  fired : (ticks p n ⟨t, f⟩).fired = f
  count : fireCount p n t = 0

/-- `n` ticks reach the first fire and go `n - max t 1` on from it. -/
structure FiringTicks (p t : BitVec 14) (n : Nat) (f : Bool) : Prop where
  timer : (ticks p n ⟨t, f⟩).timer.toNat = p.toNat - (n - max t.toNat 1) % p.toNat
  fired : (ticks p n ⟨t, f⟩).fired = true
  count : fireCount p n t = 1 + (n - max t.toNat 1) / p.toNat

theorem ticks_closed {p : BitVec 14} (hp : p ≠ 0) (t : BitVec 14) (n : Nat) (f : Bool) :
    (n < max t.toNat 1 → QuietTicks p t n f) ∧ (max t.toNat 1 ≤ n → FiringTicks p t n f) := by
  have hpos : 0 < p.toNat := Nat.pos_of_ne_zero fun h => hp (BitVec.eq_of_toNat_eq h)
  induction n generalizing t f with
  | zero => exact ⟨fun _ => ⟨rfl, rfl, rfl⟩, fun h => by omega⟩
  | succ n ih =>
    rcases tick_cases p t with ⟨h0, _⟩ | ⟨_, ht, htick⟩ | ⟨_, ht, htick⟩
    · exact absurd h0 hp
    · -- the first tick fires and reloads the period
      have hticks : ticks p (n + 1) ⟨t, f⟩ = ticks p n ⟨p, true⟩ := by rw [ticks_succ, htick, Bool.or_true]
      have hcount : fireCount p (n + 1) t = 1 + fireCount p n p := by rw [fireCount_succ, htick, if_pos rfl]
      obtain ⟨hquiet, hfire⟩ := ih p true
      refine ⟨fun h => by omega, fun _ => ?_⟩
      have hgone : n + 1 - max t.toNat 1 = n := by omega
      by_cases hn : n < p.toNat
      · obtain ⟨h1, h2, h3⟩ := hquiet (by omega)
        refine ⟨?_, by rw [hticks, h2], ?_⟩
        · rw [hticks, h1, hgone, Nat.mod_eq_of_lt hn]
        · rw [hcount, h3, hgone, Nat.div_eq_of_lt hn]
      · have hmax : max p.toNat 1 = p.toNat := by omega
        obtain ⟨h1, h2, h3⟩ := hfire (by omega)
        rw [hmax] at h1 h3
        refine ⟨?_, by rw [hticks, h2], ?_⟩
        · rw [hticks, h1, hgone, Nat.mod_eq_sub_mod (not_lt.1 hn)]
        · rw [hcount, h3, hgone, Nat.div_eq_sub_div hpos (not_lt.1 hn), Nat.add_comm 1 ((n - p.toNat) / p.toNat)]
    · -- the first tick counts down
      have hticks : ticks p (n + 1) ⟨t, f⟩ = ticks p n ⟨t - 1, f⟩ := by rw [ticks_succ, htick, Bool.or_false]
      have hcount : fireCount p (n + 1) t = fireCount p n (t - 1) := by simp [fireCount_succ, htick]
      have hdown : (t - 1).toNat = t.toNat - 1 := by bv_omega
      obtain ⟨hquiet, hfire⟩ := ih (t - 1) f
      rw [hdown] at hquiet hfire
      refine ⟨fun h => ?_, fun h => ?_⟩
      · obtain ⟨h1, h2, h3⟩ := hquiet (by omega)
        exact ⟨by rw [hticks, h1]; omega, by rw [hticks, h2], by rw [hcount, h3]⟩
      · have hgone : n - max (t - 1).toNat 1 = n + 1 - max t.toNat 1 := by omega
        obtain ⟨h1, h2, h3⟩ := hfire (by omega)
        exact ⟨by rw [hticks, h1, hgone], by rw [hticks, h2], by rw [hcount, h3, hgone]⟩

/-- Settles O22: a quiet stretch of `max t 1` ticks, then one fire a period. -/
theorem closedFormOfTicks : Obligations.ClosedFormOfTicks := by
  intro p t n f
  split_ifs with hp hn
  · rw [hp]
    exact ticks_off n t f
  · obtain ⟨htimer, hfired, hcount⟩ := (ticks_closed hp t n f).1 hn
    exact ⟨htimer, hfired, hcount⟩
  · obtain ⟨htimer, hfired, hcount⟩ := (ticks_closed hp t n f).2 (by omega)
    exact ⟨htimer, hfired, hcount⟩

/-- The OR of the fires says whether any tick fired. -/
theorem ticks_fired (p : BitVec 14) (n : Nat) (r : TickResult) :
    (ticks p n r).fired = (r.fired || decide (0 < fireCount p n r.timer)) := by
  induction n generalizing r with
  | zero => simp [ticks, fireCount]
  | succ n ih =>
    rw [ticks_succ, fireCount_succ, ih]
    cases (tick p r.timer).fired <;> simp

end Sys2Proof.Machine
end

section
/-! PROOF. One cycle and one batch, without and with an underflow (41_frequency_divider.md R156, R158, R160; 45 R273;
43 R216). -/

namespace Sys2Proof.Machine

/-! ### Counting -/

theorem elapse_eq (n : Nat) (timer : BitVec 14) (s : State) :
    elapse n timer s = { s with cyc := s.cyc + BitVec.ofNat 64 n, timer := timer } := by
  simp [elapse, advanceCyc, BitVec.ofInt_add]

theorem cycOverflows_eq_false_iff (s : State) (n : Nat) : s.cycOverflows n = false ↔ s.cyc.toInt + n ≤ maxI64 := by
  simp [State.cycOverflows]

theorem advanceStep_elapse (n : Nat) (timer : BitVec 14) (s : State) :
    advanceStep (elapse n timer s) = atUnderflow n timer s := by
  rw [elapse_eq]
  cases hk : s.cfg.kind <;> simp [advanceStep, atUnderflow, hk]

/-- What the source inserts in the state it has stepped into (45 R273, 43 R216). -/
def insertSource (u : State) : State := insertEvent u.sourceAmp u.cyc u

theorem underflow_elapse (n : Nat) (timer : BitVec 14) (s : State) :
    underflow (elapse n timer s) = insertSource (atUnderflow n timer s) := by
  rw [← advanceStep_elapse]
  rfl

/-! ### The insertion of the source -/

/-- It is the command `INS` of the amplitude's byte and the count. -/
theorem exec_ins_source {u : State} (hu : u.Running) :
    exec (.ins (BitVec.ofInt 8 u.sourceAmp) u.cyc) u = .next (insertSource u) := by
  have hins : exec (.ins (BitVec.ofInt 8 u.sourceAmp) u.cyc) u =
      .next (insertEvent (u.insAmp (BitVec.ofInt 8 u.sourceAmp)) u.cyc u) := transact_running _ u hu
  rw [hins, insAmp_small u _ (sourceAmp_range u)]
  rfl

/-- An insertion that fits raises nothing. -/
theorem insertEvent_fault {amp : Int} {c : Cycle} {s : State} (h : s.insertionFits amp c) :
    (insertEvent amp c s).fault = s.fault := by
  obtain ⟨hc, hfits⟩ := h
  rw [insertEvent_eq]
  rcases insertRecord_cases amp c s with ⟨hneg, _⟩ | ⟨_, _, e⟩ | ⟨_, hnew, hord, _⟩ | ⟨_, hnew, hord, hfull, _⟩ |
    ⟨_, _, _, _, e⟩
  · exact absurd hneg (not_lt.2 hc)
  · rw [e]
  · simp [hnew, hord] at hfits
  · simp [hnew, hfull] at hfits
  · rw [e, appended_eq, appended_frame]

/-- An insertion that finds the ring full raises that alone (60 R301). -/
theorem insertEvent_full {amp : Int} {c : Cycle} {s : State} (hs : s.Running) (hlock : s.lock = .free)
    (hc : 0 ≤ c.toInt) (hnew : s.coalesces amp = false) (hord : s.outOfOrder c = false) (hfull : s.ringFull = true) :
    insertEvent amp c s = { s with fault := .ringFull } := by
  have hraise : insertRecord amp c s = raise .ringFull s := by
    simp [insertRecord, not_lt.2 hc, hnew, hord, hfull]
  rw [insertEvent_eq, hraise, raise_running _ _ hs, ← hlock]

theorem insertSource_fired (n : Nat) (timer : BitVec 14) (s : State) :
    (insertSource (atUnderflow n timer s)).fired = s.fired := by
  rw [insertSource, insertEvent_frame]
  rfl

/-! ### One cycle -/

theorem tick_quiet {p t : BitVec 14} (h : p = 0 ∨ 2 ≤ t.toNat) :
    tick p t = ⟨if p = 0 then t else t - 1, false⟩ := by
  rcases tick_cases p t with ⟨hp, e⟩ | ⟨hp, ht, _⟩ | ⟨hp, _, e⟩
  · rw [e, if_pos hp]
  · rcases h with h | h
    · exact absurd h hp
    · omega
  · rw [e, if_neg hp]

section

variable {s : State} (hcyc : s.cyc.toInt < maxI64)
include hcyc

theorem not_cycOverflows_one : s.cycOverflows 1 = false :=
  (cycOverflows_eq_false_iff s 1).2 (Int.add_one_le_of_lt hcyc)

theorem cycle_quiet (h : s.period = 0 ∨ 2 ≤ s.timer.toNat) :
    cycle s = ⟨{ s with cyc := s.cyc + 1, timer := if s.period = 0 then s.timer else s.timer - 1 }, false⟩ := by
  rcases cycle_cases s with ⟨ho, _⟩ | ⟨_, _, e⟩ | ⟨_, hfired, _⟩
  · exact absurd (ho.symm.trans (not_cycOverflows_one hcyc)) (by decide)
  · rw [e, tick_quiet h]
    exact congrArg (CycleResult.mk · false) (elapse_eq 1 _ s)
  · rw [tick_quiet h] at hfired
    cases hfired

theorem cycle_underflow (hp : s.period ≠ 0) (ht : s.timer.toNat ≤ 1) :
    cycle s = ⟨insertSource (atUnderflow 1 s.period s), true⟩ := by
  have htick : tick s.period s.timer = ⟨s.period, true⟩ := by rw [tick, if_neg hp, if_pos ht]
  rcases cycle_cases s with ⟨ho, _⟩ | ⟨_, hfired, _⟩ | ⟨_, _, e⟩
  · exact absurd (ho.symm.trans (not_cycOverflows_one hcyc)) (by decide)
  · rw [htick] at hfired
    cases hfired
  · rw [e, htick]
    exact congrArg (CycleResult.mk · true) (underflow_elapse 1 _ s)

end

/-- The end of `CYC` and of a batch: `fired` is written unless a fault has halted the block (R156, R160). -/
def writeFired (f : Bool) (u : State) : State := if u.halted then u else setFired f u

theorem writeFired_running {u : State} (f : Bool) (hu : u.Running) : writeFired f u = { u with fired := f } := by
  rw [writeFired, (not_halted_iff u).2 hu]
  rfl

theorem writeFired_halted {u : State} (f : Bool) (hu : u.fault ≠ .none) : writeFired f u = u :=
  if_pos ((halted_iff u).2 hu)

theorem oneCycle_eq (s : State) : oneCycle s = writeFired (cycle s).fired (cycle s).state := rfl

/-- `fired` is all that `CYC` adds to its cycle. -/
theorem oneCycle_frame (s : State) : oneCycle s = { (cycle s).state with fired := (oneCycle s).fired } := by
  rw [oneCycle_eq, writeFired]
  split <;> rfl

theorem exec_cyc_running {s : State} (hs : s.Running) : exec .cyc s = .next (oneCycle s) := transact_running _ s hs

section

variable {u : State} (hu : u.Running)
include hu

/-- An underflow whose insertion fits leaves what `INS` leaves, and `fired` is 1. -/
theorem writeFired_insertSource_fits (hfits : u.insertionFits u.sourceAmp u.cyc) :
    ∃ v : State, exec (.ins (BitVec.ofInt 8 u.sourceAmp) u.cyc) u = .next v ∧ v.Running ∧
      (.next (writeFired true (insertSource u)) : Host.Outcome State Fault Refusal) = .next { v with fired := true } := by
  have hv : (insertSource u).Running := (insertEvent_fault hfits).trans hu
  exact ⟨insertSource u, exec_ins_source hu, hv, by rw [writeFired_running true hv]⟩

/-- An underflow that finds the ring full records that and leaves `fired` unwritten (60 R301). -/
theorem writeFired_insertSource_full (hlock : u.lock = .free) (hc : 0 ≤ u.cyc.toInt)
    (hnew : u.coalesces u.sourceAmp = false) (hord : u.outOfOrder u.cyc = false) (hfull : u.ringFull = true) :
    (.next (writeFired true (insertSource u)) : Host.Outcome State Fault Refusal) =
      .next { u with fault := .ringFull } := by
  rw [insertSource, insertEvent_full hu hlock hc hnew hord hfull, writeFired_halted true (by simp)]

end

/-- Settles O23: a quiet cycle, with `fired` written. -/
theorem cycleWithoutUnderflow : Obligations.CycleWithoutUnderflow := by
  intro s hs hcyc h
  rw [exec_cyc_running hs, oneCycle_eq, cycle_quiet hcyc h]
  exact congrArg _ (writeFired_running false hs)

/-- Settles O24: the insertion is the command `INS`, and `fired` is written unless it faults. -/
theorem cycleWithUnderflow : Obligations.CycleWithUnderflow := by
  intro s hs hlock hcyc hp ht u
  rw [exec_cyc_running hs, oneCycle_eq, cycle_underflow hcyc hp ht]
  exact ⟨writeFired_insertSource_fits hs, writeFired_insertSource_full hs hlock⟩

/-! ### One cycle of an `EMU` -/

theorem emuCycle_running {s u : State} {f : Bool} (e : EmuRun) (h : cycle s = ⟨u, f⟩) (hu : u.Running) :
    emuCycle e s = { u with
      fired := if e.left ≤ 1 then e.any || f else u.fired
      emu := if e.left ≤ 1 then none else some ⟨e.left - 1, e.any || f⟩ } := by
  have hu' : u.fault = .none := hu
  by_cases hlast : e.left ≤ 1 <;> simp [emuCycle, h, State.halted, hu', setFired, hlast]

theorem emuCycle_halted {s u : State} {f : Bool} (e : EmuRun) (h : cycle s = ⟨u, f⟩) (hu : u.fault ≠ .none) :
    emuCycle e s = { u with emu := none } := by
  simp [emuCycle, h, State.halted, hu]

theorem emuCycle_emuCycleEffect {s : State} (hs : s.Running) (hlock : s.lock = .free) (hcyc : s.cyc.toInt < maxI64)
    (e : EmuRun) : EmuCycleEffect e s (.next (emuCycle e s)) where
  quiet h := by
    rw [emuCycle_running e (cycle_quiet hcyc h) hs, Bool.or_false]
  underflow hp ht := by
    intro u hfits
    have hv : (insertSource u).Running := (insertEvent_fault hfits).trans hs
    refine ⟨insertSource u, exec_ins_source hs, ?_⟩
    rw [emuCycle_running e (cycle_underflow hcyc hp ht) hv, insertSource_fired, Bool.or_true]
  full hp ht := by
    intro u hc hnew hord hfull
    have hv : insertSource u = { u with fault := .ringFull } := insertEvent_full hs hlock hc hnew hord hfull
    rw [emuCycle_halted e ((cycle_underflow hcyc hp ht).trans (congrArg (CycleResult.mk · true) hv)) (by simp)]

theorem exec_emu {s : State} (hs : s.Running) {n : BitVec 12} (hn : n ≠ 0) :
    exec (.emu n) s = .next (emuCycle ⟨n.toNat, false⟩ s) := by
  have hn' : n.toNat ≠ 0 := fun h => hn (BitVec.eq_of_toNat_eq h)
  have hrun : exec (.emu n) s = .next (startEmu n.toNat s) := transact_running _ s hs
  rw [hrun, startEmu, if_neg hn']

/-- Settles O26: both the first step and every later one are `emuCycle`. -/
theorem emuRunsOneCycleAStep : Obligations.EmuRunsOneCycleAStep := by
  intro s hs hlock
  refine ⟨transact_running (startEmu 0) s hs, fun hcyc => ⟨fun n hn => ?_, fun e he ha => ?_⟩⟩
  · rw [exec_emu hs hn]
    exact emuCycle_emuCycleEffect hs hlock hcyc _
  · rw [(stepContinuesOrIdles s hs).1 e ha he]
    exact emuCycle_emuCycleEffect (takeTurn_running hs) (by simpa using hlock) (by simpa using hcyc) e

/-! ### A batch -/

theorem batch_quiet {s : State} {n : Nat} (h : s.cycOverflows n = false) (hnone : fireCount s.period n s.timer = 0) :
    batch n s = { elapse n (ticks s.period n ⟨s.timer, false⟩).timer s with fired := false } := by
  have hfired : (ticks s.period n ⟨s.timer, false⟩).fired = false := by simp [ticks_fired, hnone]
  simp only [batch, h, hfired]
  rfl

/-- However many of its ticks fire, a batch makes one underflow, at its end (41 R160). -/
theorem batch_firing {s : State} {n : Nat} (h : s.cycOverflows n = false) (hfire : 0 < fireCount s.period n s.timer) :
    batch n s = writeFired true (insertSource (atUnderflow n (ticks s.period n ⟨s.timer, false⟩).timer s)) := by
  have hfired : (ticks s.period n ⟨s.timer, false⟩).fired = true := by simp [ticks_fired, hfire]
  rw [← underflow_elapse]
  simp only [batch, h, hfired]
  rfl

theorem exec_fdivn_running {s : State} (hs : s.Running) (n : BitVec 12) : exec (.fdivn n) s = .next (batch n.toNat s) :=
  transact_running _ s hs

/-- Settles O28: the batch's one insertion is the command `INS`. -/
theorem batchOfCycles : Obligations.BatchOfCycles := by
  intro s n hs hlock hcyc t
  have hcount := (cycOverflows_eq_false_iff s n.toNat).2 hcyc
  rw [exec_fdivn_running hs]
  refine ⟨fun hnone => ?_, fun hfire => ?_⟩
  · rw [batch_quiet hcount hnone, elapse_eq]
  · rw [batch_firing hcount hfire]
    exact ⟨writeFired_insertSource_fits hs, writeFired_insertSource_full hs hlock⟩

end Sys2Proof.Machine
end

section
/-! PROOF. What can change the frequency: code, period and timer under every step (41_frequency_divider.md R152, R163,
R164). -/

namespace Sys2Proof.Machine

/-! ### What a cycle leaves alone -/

theorem advanceStep_frame (s : State) :
    advanceStep s = { s with dstep := (advanceStep s).dstep, wstep := (advanceStep s).wstep } := by
  unfold advanceStep
  split <;> rfl

/-- A cycle, or a batch before its last line, writes the count, the timer, the source's step, the ring, the fault and the
lock. -/
structure CycleFrame (s t : State) : Prop where
  eq : t = { s with
    cyc := t.cyc, timer := t.timer, dstep := t.dstep, wstep := t.wstep, fault := t.fault, ring := t.ring,
    newest := t.newest, wrValid := t.wrValid, lock := t.lock }

namespace CycleFrame

variable {s t u : State}

theorem trans (h : CycleFrame s t) (h' : CycleFrame t u) : CycleFrame s u := by
  refine ⟨?_⟩
  conv_lhs => rw [h'.eq, h.eq]

theorem code (h : CycleFrame s t) : t.code = s.code := by rw [h.eq]; rfl
theorem period (h : CycleFrame s t) : t.period = s.period := by rw [h.eq]
theorem emu (h : CycleFrame s t) : t.emu = s.emu := by rw [h.eq]
theorem env (h : CycleFrame s t) : t.env = s.env := by rw [h.eq]

end CycleFrame

theorem raise_cycleFrame (x : FaultCode) (s : State) : CycleFrame s (raise x s) := ⟨by rw [raise_frame]⟩

theorem elapse_cycleFrame (n : Nat) (timer : BitVec 14) (s : State) : CycleFrame s (elapse n timer s) := ⟨rfl⟩

theorem insertSource_cycleFrame (s : State) : CycleFrame s (insertSource s) :=
  ⟨by rw [insertSource, insertEvent_frame]⟩

theorem underflow_cycleFrame (s : State) : CycleFrame s (underflow s) :=
  have hstep : CycleFrame s (advanceStep s) := ⟨by rw [advanceStep_frame]⟩
  hstep.trans (insertSource_cycleFrame _)

theorem cycle_cycleFrame (s : State) : CycleFrame s (cycle s).state := by
  rw [cycle_state]
  split_ifs
  · exact raise_cycleFrame _ s
  · exact (elapse_cycleFrame 1 _ s).trans (underflow_cycleFrame _)
  · exact elapse_cycleFrame 1 _ s

/-! ### Cycles keep code and period -/

/-- The frequency as written: the code and the period computed from it. -/
def State.frequency (s : State) : BitVec 11 × BitVec 14 := (s.code, s.period)

theorem CycleFrame.frequency {s t : State} (h : CycleFrame s t) : t.frequency = s.frequency :=
  congrArg₂ Prod.mk h.code h.period

theorem oneCycle_frequency (s : State) : (oneCycle s).frequency = s.frequency := by
  rw [oneCycle_frame]
  exact (cycle_cycleFrame s).frequency

theorem emuCycle_frequency (e : EmuRun) (s : State) : (emuCycle e s).frequency = s.frequency := by
  refine Eq.trans ?_ (cycle_cycleFrame s).frequency
  unfold emuCycle
  dsimp only
  split_ifs <;> rfl

theorem startEmu_frequency (n : Nat) (s : State) : (startEmu n s).frequency = s.frequency := by
  unfold startEmu
  split
  · rfl
  · exact emuCycle_frequency _ s

theorem batch_frequency (n : Nat) (s : State) : (batch n s).frequency = s.frequency := by
  have helapse := elapse_cycleFrame n (ticks s.period n ⟨s.timer, false⟩).timer s
  have hfire := (helapse.trans (underflow_cycleFrame _)).frequency
  unfold batch
  dsimp only
  split_ifs
  · exact (raise_cycleFrame _ s).frequency
  · exact hfire
  · exact hfire
  · rfl

/-! ### W's commands -/

/-- The commands that let cycles elapse (41 R156, R158, R160). -/
def runsCycles (i : Instr) : Prop := i = .cyc ∨ (∃ n, i = .emu n) ∨ ∃ n, i = .fdivn n

/-- Neither the frequency nor the timer changes. -/
structure SameTuning (s t : State) : Prop where
  frequency : t.frequency = s.frequency
  timer     : t.timer = s.timer

theorem SameTuning.trans {s t u : State} (h : SameTuning s t) (h' : SameTuning t u) : SameTuning s u :=
  ⟨h'.frequency.trans h.frequency, h'.timer.trans h.timer⟩

theorem raise_sameTuning (x : FaultCode) (s : State) : SameTuning s (raise x s) := by
  rw [raise_frame]
  exact ⟨rfl, rfl⟩

/-- A register that holds no bit of the code. -/
theorem setReg_sameTuning {i : Fin 5} (hi : i.val < 3) (d : Byte) (s : State) : SameTuning s (setReg i d s) := by
  have h3 : i.val ≠ 3 := by omega
  have h4 : i.val ≠ 4 := by omega
  exact ⟨by simp [State.frequency, State.code, h3, h4], rfl⟩

theorem markSweep_sameTuning (d : Byte) (s : State) : SameTuning s (markSweep d s) := by
  unfold markSweep
  split <;> exact ⟨rfl, rfl⟩

theorem readReg_sameTuning (sel : BitVec 3) (s : State) : SameTuning s (readReg sel s) := by
  unfold readReg
  split
  · exact ⟨rfl, rfl⟩
  · exact raise_sameTuning _ s

theorem tickEnvelope_sameTuning (s : State) : SameTuning s (tickEnvelope s) := by
  rw [tickEnvelope_eq]
  split_ifs <;> exact ⟨rfl, rfl⟩

theorem insertEvent_sameTuning (amp : Int) (c : Cycle) (s : State) : SameTuning s (insertEvent amp c s) := by
  rw [insertEvent_frame]
  exact ⟨rfl, rfl⟩

/-- Without bit 7 there is no trigger (41 R157). -/
theorem writeFhi_timer {d : Byte} (hd : fhiInit d ≠ true) (s : State) : (writeFhi d s).timer = s.timer := by
  unfold writeFhi
  dsimp only
  rw [if_neg hd]
  simp

/-- What a command of W does to the tuning: nothing, a frequency write, or cycles, which only move the timer. -/
theorem exec_w_tuning {i : Instr} {s t : State} (hw : Agent.w.owns i = true) (h : exec i s = .next t) :
    SameTuning s t ∨ ((∃ d, i = .wrFlo d) ∧ t.timer = s.timer) ∨
      (∃ d, i = .wrFhi d ∧ (fhiInit d = true ∨ t.timer = s.timer)) ∨ (runsCycles i ∧ t.frequency = s.frequency) := by
  have hrefl : SameTuning s s := ⟨rfl, rfl⟩
  have same {f : State → State} (hf : SameTuning s (f s)) (h : transact f s = .next t) := transact_rel hrefl hf h
  have kind {k : ChKind} {f : State → State} (hf : SameTuning s (f s)) : SameTuning s (forKind k f s) :=
    forKind_rel (raise_sameTuning _ s) fun _ => hf
  have cycles {f : State → State} (hf : (f s).frequency = s.frequency) (h : transact f s = .next t) :=
    transact_rel (R := fun s t => t.frequency = s.frequency) rfl hf h
  cases i with
  | nop => exact .inl (same (f := fun u => u) hrefl h)
  | wrSwp d =>
    refine .inl (same (kind ?_) h)
    exact (setReg_sameTuning (i := 0) (by decide) d s).trans (markSweep_sameTuning d _)
  | wrWon d | wrLen d | wrWlen d | wrWvol d => exact .inl (same (kind (setReg_sameTuning (by decide) d s)) h)
  | wrEnv d =>
    refine .inl (same (kind ?_) h)
    exact (setReg_sameTuning (i := 2) (by decide) d s).trans ⟨rfl, rfl⟩
  | wrw idx d | rdw idx =>
    refine .inl (same (kind ?_) h)
    exact ⟨rfl, rfl⟩
  | rd sel => exact .inl (same (readReg_sameTuning sel s) h)
  | envclk =>
    dsimp only [exec, execEnvclk] at h
    refine .inl (same ?_ h)
    split
    · exact tickEnvelope_sameTuning s
    · exact hrefl
  | ins amp c => exact .inl (same (insertEvent_sameTuning _ c s) h)
  | wrFlo d =>
    exact .inr (.inl ⟨⟨d, rfl⟩, transact_rel (R := fun s t => t.timer = s.timer)
      (f := fun u => recomputePeriod (setReg 3 d u)) rfl rfl h⟩)
  | wrFhi d =>
    refine .inr (.inr (.inl ⟨d, rfl, or_iff_not_imp_left.2 fun hd => ?_⟩))
    exact transact_rel (R := fun s t => t.timer = s.timer) rfl (writeFhi_timer hd s) h
  | cyc => exact .inr (.inr (.inr ⟨.inl rfl, cycles (oneCycle_frequency s) h⟩))
  | emu n => exact .inr (.inr (.inr ⟨.inr (.inl ⟨n, rfl⟩), cycles (startEmu_frequency _ s) h⟩))
  | fdivn n => exact .inr (.inr (.inr ⟨.inr (.inr ⟨n, rfl⟩), cycles (batch_frequency _ s) h⟩))
  | upd | rnd | oclr | rst => cases hw

/-! ### Steps -/

/-- What a step does to the units: nothing, a cycle of the `EMU` under way, a command of W, or the reset. -/
theorem step_units_cases {s t : State} (h : step s = .next t) :
    t.unitPart = s.unitPart ∨
    (∃ e, s.nextAgent = .w ∧ s.emu = some e ∧ t = emuCycle e (takeTurn s)) ∨
    (∃ i s', s.startsCommand i ∧ s'.unitPart = s.unitPart ∧ Agent.w.owns i = true ∧ exec i s' = .next t) ∨
    s.startsCommand .rst := by
  have hturn := takeTurn_unitPart s
  cases ha : s.nextAgent
  · rcases step_cases h with rfl | ⟨_, rfl⟩ | ⟨_, _, rfl⟩ | ⟨hr, _⟩ | ⟨e, _, _, he, rfl⟩ | ⟨_, hr, _⟩ |
      ⟨i, rest, hf, _, hfree, hi, ho, hd, hx⟩ | ⟨_, rfl⟩ | ⟨hr, _⟩
    · exact .inl hturn
    · exact .inl (by rw [dropCommand_frame]; exact hturn)
    · exact .inl hturn
    · cases ha.symm.trans hr
    · exact .inr (.inl ⟨e, rfl, he, rfl⟩)
    · cases ha.symm.trans hr
    · refine .inr (.inr (.inl ⟨i, _, ⟨⟨rest, hd⟩, hfree, .inl hf, fun hrst => absurd hrst hi⟩, ?_, ha ▸ ho, hx⟩))
      rw [setPort_frame]
      exact hturn
    · exact .inl (by rw [raise_frame, dropCommand_frame]; exact hturn)
    · cases ha.symm.trans hr
  · exact .inl (unitPart_of_writerPart (step_r_writerPart ha h))
  · rcases step_host_cases ha h with rfl | rfl | rfl | ⟨hrst, _⟩
    · exact .inl hturn
    · exact .inl hturn
    · exact .inl (by rw [raise_frame]; exact hturn)
    · exact .inr (.inr (.inr hrst))

theorem sameTuning_of_unitPart {s t : State} (h : t.unitPart = s.unitPart) : SameTuning s t := by
  obtain ⟨_, _, hcode, hperiod, htimer, _, _, _, _, _, _⟩ := UnitPart.mk.inj h
  exact ⟨congrArg₂ Prod.mk hcode hperiod, htimer⟩

theorem frequency_ne {s t : State} (h : t.code ≠ s.code ∨ t.period ≠ s.period) : t.frequency ≠ s.frequency := by
  intro heq
  obtain ⟨hcode, hperiod⟩ := Prod.mk.inj heq
  exact h.elim (absurd hcode) (absurd hperiod)

/-- Settles O30: by what the step runs, and for a command of W by which command it is. -/
theorem onlyFrequencyCommandsChangeFrequency : Obligations.OnlyFrequencyCommandsChangeFrequency := by
  intro s t h
  rcases step_units_cases h with hsame | ⟨e, ha, he, rfl⟩ | ⟨i, s', hstart, hs', hw, hx⟩ | hrst
  · obtain ⟨hfreq, htimer⟩ := sameTuning_of_unitPart hsame
    exact ⟨fun hne => absurd hfreq (frequency_ne hne), fun hne => absurd htimer hne⟩
  · have hfreq := (emuCycle_frequency e (takeTurn s)).trans (sameTuning_of_unitPart (takeTurn_unitPart s)).frequency
    exact ⟨fun hne => absurd hfreq (frequency_ne hne), fun _ => .inl ⟨ha, by rw [he]; rfl⟩⟩
  · obtain ⟨hfreq', htimer'⟩ := sameTuning_of_unitPart hs'
    rcases exec_w_tuning hw hx with ⟨hfreq, htimer⟩ | ⟨⟨d, hi⟩, htimer⟩ | ⟨d, hi, htimer⟩ | ⟨hi, hfreq⟩
    · exact ⟨fun hne => absurd (hfreq.trans hfreq') (frequency_ne hne), fun hne => absurd (htimer.trans htimer') hne⟩
    · exact ⟨fun _ => ⟨i, hstart, .inl ⟨d, hi⟩⟩, fun hne => absurd (htimer.trans htimer') hne⟩
    · refine ⟨fun _ => ⟨i, hstart, .inr (.inl ⟨d, hi⟩)⟩, fun hne => .inr ⟨i, hstart, ?_⟩⟩
      have hinit := htimer.resolve_right fun heq => hne (heq.trans htimer')
      exact .inr (.inr (.inr (.inl ⟨d, hi, hinit⟩)))
    · refine ⟨fun hne => absurd (hfreq.trans hfreq') (frequency_ne hne), fun _ => .inr ⟨i, hstart, ?_⟩⟩
      exact hi.imp_right (Or.imp_right .inl)
  · exact ⟨fun _ => ⟨.rst, hrst, .inr (.inr rfl)⟩, fun _ => .inr ⟨.rst, hrst, .inr (.inr (.inr (.inr rfl)))⟩⟩

end Sys2Proof.Machine
end

section
/-! PROOF. An `EMU` and a batch against the cycles run one by one (41_frequency_divider.md R158, R160; 20_memory.md R88). -/

namespace Sys2Proof.Machine

/-! ### What a cycle does not see -/

/-- `s` with another `EMU` under way, another `fired` and other turns to come. -/
def withRun (m : Option EmuRun) (f : Bool) (turns : List Agent) (s : State) : State :=
  { s with emu := m, fired := f, env := { s.env with sched := turns } }

section

variable (m : Option EmuRun) (f : Bool) (turns : List Agent)

theorem raise_blindRun (x : FaultCode) : Blind (fun _ => withRun m f turns) (raise x) := .ite .update .id

theorem closeLast_blindRun (c : Cycle) : Blind (fun _ => withRun m f turns) (closeLast c) := .ite .update .id

theorem insertRecord_blindRun (amp : Int) (c : Cycle) : Blind (fun _ => withRun m f turns) (insertRecord amp c) :=
  have hraise := raise_blindRun m f turns
  have happend : Blind (fun _ => withRun m f turns) fun s => markWritten (appendRecord amp c s) := .update
  .ite (hraise _) (.ite .id (.ite (hraise _) (.ite (hraise _) (happend.comp (closeLast_blindRun m f turns c)))))

theorem insertSource_blindRun : Blind (fun _ => withRun m f turns) insertSource :=
  .choose (F := fun (x : Int × Cycle) => insertEvent x.1 x.2) (fun s => (s.sourceAmp, s.cyc))
    fun x => (insertRecord_blindRun m f turns x.1 x.2).locked (fun _ => .update) .w

theorem advanceStep_blindRun : Blind (fun _ => withRun m f turns) advanceStep := by
  refine .choose (put := fun _ => withRun m f turns) (F := fun k s => match k with
    | .square => { s with dstep := s.dstep + 1 }
    | .wave => { s with wstep := s.wstep + 1 }) (fun s => s.cfg.kind) fun k => ?_
  cases k <;> exact .update

theorem cycle_blindRun : Blind (fun _ => withRun m f turns) fun s => (cycle s).state := by
  have helapse : Blind (fun _ => withRun m f turns) fun s => elapse 1 (tick s.period s.timer).timer s := .update
  have hunderflow := (insertSource_blindRun m f turns).comp (advanceStep_blindRun m f turns)
  rw [funext cycle_state]
  exact .ite (raise_blindRun m f turns _) (.ite (hunderflow.comp helapse) helapse)

variable (s : State)

theorem insertSource_withRun : insertSource (withRun m f turns s) = withRun m f turns (insertSource s) :=
  (insertSource_blindRun m f turns s s).choose_spec

theorem cycle_withRun : cycle (withRun m f turns s) = ⟨withRun m f turns (cycle s).state, (cycle s).fired⟩ := by
  have hstate := (cycle_blindRun m f turns s s).choose_spec
  have hfired : (cycle (withRun m f turns s)).fired = (cycle s).fired := by
    rw [cycle_fired, cycle_fired]
    rfl
  exact congrArg₂ CycleResult.mk hstate hfired

variable {m f turns s}

theorem oneCycle_fault (s : State) : (oneCycle s).fault = (cycle s).state.fault := by rw [oneCycle_frame]

/-- A cycle of an `EMU` is a `CYC` except for `fired`, which collects the OR and is written by the last (41 R158). -/
theorem emuCycle_withRun_running (e : EmuRun) (h : (oneCycle s).Running) :
    emuCycle e (withRun m f turns s) =
      withRun (if e.left ≤ 1 then none else some ⟨e.left - 1, e.any || (oneCycle s).fired⟩)
        (if e.left ≤ 1 then e.any || (oneCycle s).fired else f) turns (oneCycle s) := by
  have hu : (cycle s).state.Running := (oneCycle_fault s).symm.trans h
  rw [emuCycle_running e (cycle_withRun m f turns s) hu, oneCycle_eq, writeFired_running _ hu]
  rfl

/-- One that faults ends the `EMU`, with `fired` as it was. -/
theorem emuCycle_withRun_halted (e : EmuRun) (h : ¬ (oneCycle s).Running) :
    emuCycle e (withRun m f turns s) = withRun none f turns (oneCycle s) := by
  have hu : (cycle s).state.fault ≠ .none := fun hu => h ((oneCycle_fault s).trans hu)
  rw [emuCycle_halted e (cycle_withRun m f turns s) hu, oneCycle_eq, writeFired_halted _ hu]
  rfl

end

/-! ### The turns of an `EMU` -/

theorem cycRun_succ_state {s : State} (h : (oneCycle s).Running) (n : Nat) :
    (cycRun (n + 1) s).1 = (cycRun n (oneCycle s)).1 := by
  simp only [cycRun, (not_halted_iff _).2 h]
  rfl

theorem cycRun_succ_any {s : State} (h : (oneCycle s).Running) (n : Nat) :
    (cycRun (n + 1) s).2 = ((oneCycle s).fired || (cycRun n (oneCycle s)).2) := by
  simp only [cycRun, (not_halted_iff _).2 h]
  rfl

theorem cycRun_succ_halted {s : State} (h : ¬ (oneCycle s).Running) (n : Nat) :
    cycRun (n + 1) s = (oneCycle s, false) := if_pos ((halted_iff _).2 h)

/-- Cycles that end in a running block did not fault on the way. -/
theorem oneCycle_running_of_cycRun {n : Nat} {s : State} (h : (cycRun (n + 1) s).1.Running) : (oneCycle s).Running := by
  by_contra hhalt
  rw [cycRun_succ_halted hhalt] at h
  exact hhalt h

theorem steps_succ {s t : State} (h : step s = .next t) (n : Nat) : steps (n + 1) s = steps n t := by
  rw [steps, h]

/-- W's turn while an `EMU` is under way. -/
theorem step_withRun {s : State} (hs : s.Running) (e : EmuRun) (f : Bool) (turns : List Agent) :
    step (withRun (some e) f (.w :: turns) s) = .next (emuCycle e (withRun (some e) f turns s)) :=
  (stepContinuesOrIdles (withRun (some e) f (.w :: turns) s) hs).1 e rfl rfl

section

variable (f : Bool) (turns : List Agent)

/-- After a cycle that neither faults nor is the last, the next turn runs one more. -/
theorem steps_emu_succ {s : State} (h : (oneCycle s).Running) (n j : Nat) (any : Bool) (m : Option EmuRun) :
    steps (j + 1) (emuCycle ⟨n + 2, any⟩ (withRun m f (List.replicate (j + 1) .w ++ turns) s)) =
      steps j (emuCycle ⟨n + 1, any || (oneCycle s).fired⟩
        (withRun (some ⟨n + 1, any || (oneCycle s).fired⟩) f (List.replicate j .w ++ turns) (oneCycle s))) := by
  rw [emuCycle_withRun_running _ h]
  exact steps_succ (step_withRun h _ _ _) j

/-- An `EMU` whose cycles do not fault leaves what they leave, with the OR of their fires. -/
theorem steps_emu_running (n : Nat) (any : Bool) (m : Option EmuRun) (s : State) (h : (cycRun (n + 1) s).1.Running) :
    steps n (emuCycle ⟨n + 1, any⟩ (withRun m f (List.replicate n .w ++ turns) s)) =
      .next (withRun none (any || (cycRun (n + 1) s).2) turns (cycRun (n + 1) s).1) := by
  have hone := oneCycle_running_of_cycRun h
  induction n generalizing any m s with
  | zero =>
    rw [cycRun_succ_state hone, cycRun_succ_any hone, emuCycle_withRun_running _ hone]
    simp [steps, cycRun]
  | succ n ih =>
    rw [cycRun_succ_state hone] at h ⊢
    rw [cycRun_succ_any hone, steps_emu_succ f turns hone n n any m,
      ih _ _ (oneCycle s) h (oneCycle_running_of_cycRun h), Bool.or_assoc]

/-- Where a cycle faults, the `EMU` ends in that turn with what the cycles up to it leave and `fired` unwritten. -/
theorem steps_emu_halted (n : Nat) (any : Bool) (m : Option EmuRun) (s : State) (h : ¬ (cycRun (n + 1) s).1.Running) :
    ∃ j ≤ n, steps j (emuCycle ⟨n + 1, any⟩ (withRun m f (List.replicate j .w ++ turns) s)) =
      .next (withRun none f turns (cycRun (n + 1) s).1) := by
  induction n generalizing any m s with
  | zero =>
    have hone : ¬ (oneCycle s).Running := fun hone => h (by rwa [cycRun_succ_state hone])
    refine ⟨0, le_rfl, ?_⟩
    rw [cycRun_succ_halted hone]
    exact congrArg _ (emuCycle_withRun_halted _ hone)
  | succ n ih =>
    by_cases hone : (oneCycle s).Running
    · rw [cycRun_succ_state hone] at h ⊢
      obtain ⟨j, hj, hsteps⟩ := ih (any || (oneCycle s).fired) (some ⟨n + 1, any || (oneCycle s).fired⟩) (oneCycle s) h
      exact ⟨j + 1, by omega, (steps_emu_succ f turns hone n j any m).trans hsteps⟩
    · refine ⟨0, Nat.zero_le _, ?_⟩
      rw [cycRun_succ_halted hone]
      exact congrArg _ (emuCycle_withRun_halted _ hone)

end

/-! ### An `EMU` as cycles -/

theorem oneCycle_emu (s : State) : (oneCycle s).emu = s.emu := by
  rw [oneCycle_frame]
  exact (cycle_cycleFrame s).emu

theorem oneCycle_env (s : State) : (oneCycle s).env = s.env := by
  rw [oneCycle_frame]
  exact (cycle_cycleFrame s).env

/-- `CYC` touches neither an `EMU` under way nor the model's inputs. -/
theorem cycRun_emu_env (n : Nat) (s : State) : (cycRun n s).1.emu = s.emu ∧ (cycRun n s).1.env = s.env := by
  induction n generalizing s with
  | zero => exact ⟨rfl, rfl⟩
  | succ n ih =>
    by_cases hone : (oneCycle s).Running
    · rw [cycRun_succ_state hone]
      exact ⟨(ih _).1.trans (oneCycle_emu s), (ih _).2.trans (oneCycle_env s)⟩
    · rw [cycRun_succ_halted hone]
      exact ⟨oneCycle_emu s, oneCycle_env s⟩

/-- W's turn with `EMU` next on its port: the first cycle. -/
theorem step_startsEmu {s : State} {n : BitVec 12} {rest : List Word} (hs : s.Running) (hemu : s.emu = none)
    (hn : n ≠ 0) (hport : s.env.wPort = encode (.emu n) ++ rest) (j : Nat) :
    step (withTurns .w (j + 1) s) = .next (emuCycle ⟨n.toNat, false⟩
      (withRun none s.fired (List.replicate j .w ++ s.env.sched) (setPort .w rest s))) := by
  have hdecode : decodeOn s.cfg.kind .w s.env.wPort = .ok (.emu n, rest) := by
    rw [hport, decodeOn, decode_encode rfl]
    rfl
  have hstate : setPort .w rest (takeTurn (withTurns .w (j + 1) s)) =
      withRun none s.fired (List.replicate j .w ++ s.env.sched) (setPort .w rest s) := by
    rw [← hemu]
    rfl
  have hs' : (withRun none s.fired (List.replicate j .w ++ s.env.sched) (setPort .w rest s)).Running := hs
  calc step (withTurns .w (j + 1) s)
      = exec (.emu n) (setPort .w rest (takeTurn (withTurns .w (j + 1) s))) :=
        stepRunsTheDecodedCommand (withTurns .w (j + 1) s) (.emu n) rest hs hemu nofun hdecode
    _ = exec (.emu n) (withRun none s.fired (List.replicate j .w ++ s.env.sched) (setPort .w rest s)) := by rw [hstate]
    _ = _ := exec_emu hs' hn

/-- Settles O27: the first turn starts the `EMU`, and each runs one cycle of it. -/
theorem emuIsRepeatedCycles : Obligations.EmuIsRepeatedCycles := by
  intro s n rest hs hemu hn hport r
  obtain ⟨k, hk⟩ : ∃ k, n.toNat = k + 1 :=
    Nat.exists_eq_add_one.2 (Nat.pos_of_ne_zero fun h => hn (BitVec.eq_of_toNat_eq h))
  have hr : r = cycRun (k + 1) (setPort .w rest s) := congrArg (cycRun · _) hk
  have hsteps (j : Nat) := steps_succ (step_startsEmu hs hemu hn hport j) j
  obtain ⟨hremu, hrenv⟩ := cycRun_emu_env (k + 1) (setPort .w rest s)
  have hend (f : Bool) : withRun none f s.env.sched r.1 = { r.1 with fired := f } := by
    have hsched : r.1.env.sched = s.env.sched := by rw [hr, hrenv]; rfl
    have hnone : r.1.emu = none := by rw [hr, hremu]; exact hemu
    rw [← hsched, ← hnone]
    rfl
  rw [hk] at hsteps ⊢
  rw [hr] at hend ⊢
  refine ⟨fun hrun => ?_, fun hhalt => ?_⟩
  · rw [hsteps k, steps_emu_running s.fired s.env.sched k false none _ hrun, Bool.false_or, hend]
  · obtain ⟨j, hj, hemu⟩ := steps_emu_halted s.fired s.env.sched k false none _ hhalt
    exact ⟨j + 1, by omega, by omega, by rw [hsteps j, hemu, hend]⟩

end Sys2Proof.Machine
end

section
/-! PROOF. A batch whose first fire, if any, is its last tick against the cycles one by one (41_frequency_divider.md R160). -/

namespace Sys2Proof.Machine

/-! ### One tick -/

/-- A batch of one tick is one cycle. -/
theorem batch_one {s : State} (hs : s.Running) : batch 1 s = oneCycle s := by
  rw [oneCycle_eq]
  rcases cycle_cases s with ⟨ho, e⟩ | ⟨ho, hfired, e⟩ | ⟨ho, hfired, e⟩
  · have hraise : (raise .cycOvf s).fault ≠ .none := by simp [raise_running _ s hs]
    rw [e, writeFired_halted _ hraise, batch, if_pos ho]
  · have hu : State.Running { advanceCyc 1 s with timer := (tick s.period s.timer).timer } := hs
    rw [e, writeFired_running _ hu, batch_quiet ho (by simp [fireCount, hfired])]
    rfl
  · rw [e, batch_firing ho (by simp [fireCount, hfired]), ← underflow_elapse]
    rfl

/-! ### A quiet cycle before a batch -/

theorem insertSource_withFired (f : Bool) (u : State) :
    insertSource { u with fired := f } = { insertSource u with fired := f } := by
  have hframe := insertSource_cycleFrame u
  have hrun : insertSource { u with fired := f } = withRun u.emu f u.env.sched (insertSource u) :=
    insertSource_withRun u.emu f u.env.sched u
  rw [hrun, ← hframe.emu, ← hframe.env]
  rfl

theorem writeFired_withFired {f g : Bool} {u : State} (h : (writeFired f { u with fired := g }).Running) :
    writeFired f { u with fired := g } = writeFired f u := by
  by_cases hu : u.fault = .none
  · rw [writeFired_running f hu]
    exact writeFired_running f hu
  · rw [writeFired_halted (u := { u with fired := g }) f hu] at h
    exact absurd h hu

/-- A cycle that does not fire leaves the count, the timer and `fired` behind. -/
theorem oneCycle_quiet {s : State} (hs : s.Running) (ho : s.cycOverflows 1 = false)
    (htick : (tick s.period s.timer).fired = false) :
    oneCycle s = { elapse 1 (tick s.period s.timer).timer s with fired := false } := by
  rw [← batch_one hs, batch_quiet ho (by simp [fireCount, htick])]
  rfl

theorem cycOverflows_elapse {s : State} (ho : s.cycOverflows 1 = false) (timer : BitVec 14) (f : Bool) (n : Nat) :
    State.cycOverflows { elapse 1 timer s with fired := f } n = s.cycOverflows (n + 1) := by
  have hcyc : (elapse 1 timer s).cyc.toInt = s.cyc.toInt + (1 : Nat) := advanceCyc_toInt ho
  simp only [State.cycOverflows, hcyc]
  congr 2
  push_cast
  omega

theorem elapse_elapse (n : Nat) (t t' : BitVec 14) (s : State) : elapse n t (elapse 1 t' s) = elapse (n + 1) t s := by
  have hcyc : s.cyc + BitVec.ofNat 64 1 + BitVec.ofNat 64 n = s.cyc + BitVec.ofNat 64 (n + 1) := by
    rw [BitVec.add_assoc, ← BitVec.ofNat_add, Nat.add_comm]
  simp only [elapse_eq, hcyc]

theorem atUnderflow_elapse (n : Nat) (t t' : BitVec 14) (f : Bool) (s : State) :
    atUnderflow n t { elapse 1 t' s with fired := f } = { atUnderflow (n + 1) t s with fired := f } := by
  have hfired : atUnderflow n t { elapse 1 t' s with fired := f } =
      { atUnderflow n t (elapse 1 t' s) with fired := f } := rfl
  rw [hfired, ← advanceStep_elapse, elapse_elapse, advanceStep_elapse]

/-- A batch of `n + 1` ticks of which the first does not fire is a cycle and a batch of `n`, unless that faults. -/
theorem batch_succ {s : State} {n : Nat} (hs : s.Running) (ho : s.cycOverflows 1 = false)
    (htick : (tick s.period s.timer).fired = false) (h : (batch n (oneCycle s)).Running) :
    batch (n + 1) s = batch n (oneCycle s) := by
  have hticks : ticks s.period (n + 1) ⟨s.timer, false⟩ = ticks s.period n ⟨(tick s.period s.timer).timer, false⟩ := by
    rw [ticks_succ, htick, Bool.or_false]
  have hcount : fireCount s.period (n + 1) s.timer = fireCount s.period n (tick s.period s.timer).timer := by
    simp [fireCount_succ, htick]
  rw [oneCycle_quiet hs ho htick] at h ⊢
  have hover := cycOverflows_elapse ho (tick s.period s.timer).timer false n
  cases hov : s.cycOverflows (n + 1)
  · rw [hov] at hover
    rcases Nat.eq_zero_or_pos (fireCount s.period n (tick s.period s.timer).timer) with hnone | hfire
    · rw [batch_quiet hov (hcount.trans hnone), batch_quiet hover hnone, hticks,
        ← elapse_elapse n _ (tick s.period s.timer).timer]
      rfl
    · rw [batch_firing hover hfire, atUnderflow_elapse, insertSource_withFired] at h ⊢
      rw [batch_firing hov (hcount ▸ hfire), hticks]
      exact (writeFired_withFired h).symm
  · have hraise : (batch n { elapse 1 (tick s.period s.timer).timer s with fired := false }).fault ≠ .none := by
      rw [batch, if_pos (hover.trans hov), raise_fault]
      split_ifs with hf <;> simp [hf]
    exact absurd h hraise

/-! ### `n` times `CYC` -/

/-- A halted block refuses every further `CYC`, so they leave what they leave up to the first fault. -/
theorem runInstrs_cyc (n : Nat) {s : State} (hs : s.Running) :
    runInstrs (List.replicate n .cyc) s = .next (cycRun n s).1 := by
  have halted (k : Nat) {t : State} (ht : t.fault ≠ .none) : runInstrs (List.replicate k .cyc) t = .next t := by
    induction k with
    | zero => rfl
    | succ k ih =>
      have hcyc : exec .cyc t = .next t := transact_halted oneCycle t ht
      simpa [List.replicate_succ, runInstrs, hcyc] using ih
  induction n generalizing s with
  | zero => rfl
  | succ n ih =>
    have hfirst : runInstrs (List.replicate (n + 1) .cyc) s = runInstrs (List.replicate n .cyc) (oneCycle s) := by
      simp [List.replicate_succ, runInstrs, exec_cyc_running hs]
    rw [hfirst]
    by_cases hone : (oneCycle s).Running
    · rw [ih hone, cycRun_succ_state hone]
    · rw [halted n hone, cycRun_succ_halted hone]

/-- A cycle after which the block runs has not passed the last count. -/
theorem not_cycOverflows_of_running {s : State} (hs : s.Running) (hone : (oneCycle s).Running) :
    s.cycOverflows 1 = false := by
  by_contra ho
  have hfault : (oneCycle s).fault = .cycOvf := by
    rw [oneCycle_fault, cycle_state, if_pos (by simpa using ho), raise_running _ s hs]
  exact absurd (hfault.symm.trans hone) (by decide)

/-- Where only the last of the ticks can fire, a batch leaves what the cycles leave one by one. -/
theorem batch_eq_cycRun (n : Nat) {s : State} (hs : s.Running) (hquiet : fireCount s.period n s.timer = 0)
    (hrun : (cycRun (n + 1) s).1.Running) : batch (n + 1) s = (cycRun (n + 1) s).1 := by
  have hone := oneCycle_running_of_cycRun hrun
  induction n generalizing s with
  | zero =>
    rw [cycRun_succ_state hone]
    exact batch_one hs
  | succ n ih =>
    rw [cycRun_succ_state hone] at hrun ⊢
    have ho := not_cycOverflows_of_running hs hone
    obtain ⟨htick, hrest⟩ : (tick s.period s.timer).fired = false ∧
        fireCount s.period n (tick s.period s.timer).timer = 0 := by
      simpa [fireCount_succ] using hquiet
    have hquiet' : fireCount (oneCycle s).period n (oneCycle s).timer = 0 := by
      rw [oneCycle_quiet hs ho htick]
      exact hrest
    have hbatch := ih hone hquiet' hrun (oneCycle_running_of_cycRun hrun)
    have hlast : (batch (n + 1) (oneCycle s)).Running := hbatch ▸ hrun
    rw [batch_succ hs ho htick hlast, hbatch]

/-- Settles O29: each quiet cycle can be split off the batch, and the last tick is a cycle. -/
theorem batchEqualsCyclesWithoutEarlyUnderflow : Obligations.BatchEqualsCyclesWithoutEarlyUnderflow := by
  refine ⟨fun s => ?_, fun s t n hs hn hquiet ht hrun => ?_⟩
  · by_cases hs : s.fault = .none
    · rw [exec_cyc_running hs, ← batch_one hs]
      exact transact_running (batch 1) s hs
    · exact (transact_halted (batch 1) s hs).trans (transact_halted oneCycle s hs).symm
  · obtain ⟨k, hk⟩ : ∃ k, n.toNat = k + 1 :=
      Nat.exists_eq_add_one.2 (Nat.pos_of_ne_zero fun h => hn (BitVec.eq_of_toNat_eq h))
    rw [runInstrs_cyc _ hs] at ht
    cases ht
    rw [hk] at hquiet hrun ⊢
    rw [exec_fdivn_running hs, hk, batch_eq_cycRun k hs hquiet hrun]

end Sys2Proof.Machine
end

section
/-! PROOF. The envelope: its register write, one tick and the timing of a ramp (42_envelope.md R182, R185 to R189). -/

namespace Sys2Proof.Machine

/-! ### The fields of the envelope register and the clamped step, as numbers -/

/-- The lowest three bits of the envelope register (10_state.md R43). -/
theorem envPeriod_toNat (s : State) : s.envPeriod.toNat = s.reg[2].toNat % 8 := by
  simp [State.envPeriod]

theorem envPeriod_ne_zero_iff (s : State) : s.envPeriod ≠ 0 ↔ s.reg[2].toNat % 8 ≠ 0 := by
  rw [← envPeriod_toNat, Ne, ← BitVec.toNat_inj]
  rfl

/-- Bit 3 of the envelope register (10_state.md R43). -/
theorem envDir_iff (s : State) : s.envDir = true ↔ s.reg[2].toNat / 8 % 2 = 1 := by
  simp [State.envDir, BitVec.getLsbD, Nat.testBit_eq_decide_div_mod_eq]

/-- One step of the volume stays between 0 and 15 (42 R185, R186). -/
theorem rampVolume_toNat (up : Bool) (v : BitVec 4) :
    (rampVolume up v).toNat = if up = true then min 15 (v.toNat + 1) else v.toNat - 1 := by
  have hv := v.isLt
  unfold rampVolume
  split_ifs with hup hlimit hlimit
  · bv_omega
  · omega
  · exact BitVec.toNat_sub_of_le (BitVec.le_def.2 hlimit)
  · omega

/-- `k` steps of the volume, each clamped, are one clamped step by `k` (42 R187). -/
theorem rampVolume_iterate_toNat (up : Bool) (v : BitVec 4) (k : Nat) :
    ((rampVolume up)^[k] v).toNat = if up = true then min 15 (v.toNat + k) else v.toNat - k := by
  have hv := v.isLt
  induction k with
  | zero =>
    simp only [Function.iterate_zero, id_eq]
    split_ifs <;> omega
  | succ k ih =>
    rw [Function.iterate_succ_apply', rampVolume_toNat, ih]
    split_ifs <;> omega

/-! ### The two commands -/

/-- Settles O32: the register write, then the reload from the byte just written. -/
theorem writeEnvelope : Obligations.WriteEnvelope := by
  intro s d hs hk
  have hwrite : exec (.wrEnv d) s = .next (reloadEnvelope (setReg 2 d s)) :=
    (transact_running _ s hs).trans (congrArg _ (forKind_fits _ _ s hk))
  rw [hwrite, reloadEnvelope, envInit_eq]
  simp [setReg]

theorem exec_envclk_square {s : State} (hs : s.Running) (hk : s.cfg.kind = .square) :
    exec .envclk s = .next (tickEnvelope s) := by
  rw [exec, execEnvclk, transact_running _ s hs, hk]

/-- `ENVCLK` in a `WAVE` instance has no effect (42 R189). -/
theorem exec_envclk_wave {s : State} (hs : s.Running) (hk : s.cfg.kind = .wave) : exec .envclk s = .next s := by
  rw [exec, execEnvclk, transact_running _ s hs, hk]

/-- A tick with a period: the divider advances and its wrap steps the volume (42 R185). -/
theorem tickEnvelope_on {s : State} (hp : s.envPeriod ≠ 0) :
    tickEnvelope s = { s with
      envCnt := BitVec.ofNat 3 ((s.envCnt.toNat + 1) % s.envPeriod.toNat)
      volume := if (s.envCnt.toNat + 1) % s.envPeriod.toNat = 0 then rampVolume s.envDir s.volume else s.volume } := by
  rw [tickEnvelope_eq, if_neg hp]
  split_ifs <;> rfl

/-- The clamped step as the claim about `ENVCLK` writes it. -/
theorem rampVolume_envDir_eq (s : State) :
    rampVolume s.envDir s.volume =
      if s.reg[2].toNat / 8 % 2 = 1 then BitVec.ofNat 4 (min (s.volume.toNat + 1) 15)
      else BitVec.ofNat 4 (s.volume.toNat - 1) := by
  have hval : BitVec.ofNat 4 (rampVolume s.envDir s.volume).toNat = rampVolume s.envDir s.volume := by simp
  rw [← hval, rampVolume_toNat]
  simp only [envDir_iff, min_comm]
  split_ifs <;> rfl

/-- Settles O33: by kind, and in a `SQUARE` instance by whether the period is 0. -/
theorem envelopeClock : Obligations.EnvelopeClock := by
  intro s hs p c
  cases hk : s.cfg.kind with
  | wave => simp [exec_envclk_wave hs hk]
  | square =>
    rw [exec_envclk_square hs hk]
    by_cases hp : s.envPeriod = 0
    · have hoff : ¬ (ChKind.square = .square ∧ p ≠ 0) := fun ⟨_, hp'⟩ => (envPeriod_ne_zero_iff s).2 hp' hp
      rw [tickEnvelope_eq, if_pos hp, if_neg hoff]
    · have hon : ChKind.square = .square ∧ p ≠ 0 := ⟨rfl, (envPeriod_ne_zero_iff s).1 hp⟩
      rw [tickEnvelope_on hp, envPeriod_toNat, rampVolume_envDir_eq, if_pos hon, ite_not]

/-! ### A ramp -/

/-- The block with its envelope `m` ticks after the reload that left it as it is in `s`: the volume has stepped once for
each full period. -/
def envelopeAfter (s : State) (m : Nat) : State :=
  { s with
    envCnt := BitVec.ofNat 3 (m % s.envPeriod.toNat)
    volume := (rampVolume s.envDir)^[m / s.envPeriod.toNat] s.volume }

theorem envelopeAfter_zero {s : State} (hcnt : s.envCnt = 0) : envelopeAfter s 0 = s := by
  rw [envelopeAfter, Nat.zero_mod, Nat.zero_div]
  exact congrArg (fun c => { s with envCnt := c }) hcnt.symm

/-- The divider's count has room for every remainder by a period of three bits. -/
theorem envelopeAfter_envCnt_toNat {s : State} (hp : s.envPeriod ≠ 0) (m : Nat) :
    (envelopeAfter s m).envCnt.toNat = m % s.envPeriod.toNat := by
  have hpos : 0 < s.envPeriod.toNat := Nat.pos_of_ne_zero fun h => hp (BitVec.eq_of_toNat_eq h)
  have hlt := Nat.mod_lt m hpos
  have hperiod := s.envPeriod.isLt
  exact Nat.mod_eq_of_lt (by omega)

/-- The next tick wraps the divider exactly where the number of full periods goes up. -/
theorem tickEnvelope_envelopeAfter {s : State} (hp : s.envPeriod ≠ 0) (m : Nat) :
    tickEnvelope (envelopeAfter s m) = envelopeAfter s (m + 1) := by
  have hcount : ((envelopeAfter s m).envCnt.toNat + 1) % s.envPeriod.toNat = (m + 1) % s.envPeriod.toNat := by
    rw [envelopeAfter_envCnt_toNat hp, Nat.mod_add_mod]
  have hperiod : (envelopeAfter s m).envPeriod = s.envPeriod := rfl
  rw [tickEnvelope_on (hperiod ▸ hp), hperiod, hcount]
  by_cases hwrap : (m + 1) % s.envPeriod.toNat = 0
  · rw [if_pos hwrap, envelopeAfter, envelopeAfter, Nat.succ_div_of_mod_eq_zero hwrap, Function.iterate_succ_apply']
    rfl
  · rw [if_neg hwrap, envelopeAfter, envelopeAfter, Nat.succ_div_of_mod_ne_zero hwrap]

/-- A command that takes each state of a sequence to the next one, done `n` times. -/
theorem runInstrs_replicate {i : Instr} {f : Nat → State} (hstep : ∀ m, exec i (f m) = .next (f (m + 1))) (n m : Nat) :
    runInstrs (List.replicate n i) (f m) = .next (f (m + n)) := by
  induction n generalizing m with
  | zero => rfl
  | succ n ih =>
    rw [List.replicate_succ, runInstrs, hstep]
    exact (ih (m + 1)).trans (by rw [Nat.add_right_comm, Nat.add_assoc])

/-- Settles O34: `n` ticks leave the state after `n` ticks, whose volume is `n / p` clamped steps away. -/
theorem envelopeRampTiming : Obligations.EnvelopeRampTiming := by
  intro s n hs hk hp hcnt
  have htick (m : Nat) : exec .envclk (envelopeAfter s m) = .next (envelopeAfter s (m + 1)) := by
    rw [exec_envclk_square (s := envelopeAfter s m) hs hk, tickEnvelope_envelopeAfter hp]
  have hrun := runInstrs_replicate htick n 0
  rw [envelopeAfter_zero hcnt, Nat.zero_add] at hrun
  exact ⟨_, hrun, rfl, envelopeAfter_envCnt_toNat hp n, rampVolume_iterate_toNat _ _ _⟩

end Sys2Proof.Machine
end

section
/-! PROOF. What can change the envelope: volume and divider under every step (42_envelope.md R190). -/

namespace Sys2Proof.Machine

/-! ### What cycles leave alone -/

/-- Cycles with the last line of their command: what a cycle writes, `fired` and the `EMU` under way. -/
structure RunFrame (s t : State) : Prop where
  eq : t = { s with
    cyc := t.cyc, timer := t.timer, dstep := t.dstep, wstep := t.wstep, fault := t.fault, ring := t.ring,
    newest := t.newest, wrValid := t.wrValid, lock := t.lock, fired := t.fired, emu := t.emu }

theorem CycleFrame.runFrame {s t : State} (h : CycleFrame s t) (f : Bool) (m : Option EmuRun) :
    RunFrame s { t with fired := f, emu := m } := ⟨by rw [h.eq]⟩

theorem oneCycle_runFrame (s : State) : RunFrame s (oneCycle s) := by
  rw [oneCycle_frame]
  exact (cycle_cycleFrame s).runFrame _ _

theorem emuCycle_runFrame (e : EmuRun) (s : State) : RunFrame s (emuCycle e s) := by
  unfold emuCycle
  dsimp only
  split_ifs <;> exact (cycle_cycleFrame s).runFrame _ _

theorem startEmu_runFrame (n : Nat) (s : State) : RunFrame s (startEmu n s) := by
  unfold startEmu
  split
  · exact ⟨rfl⟩
  · exact emuCycle_runFrame _ s

theorem batch_runFrame (n : Nat) (s : State) : RunFrame s (batch n s) := by
  have helapse := elapse_cycleFrame n (ticks s.period n ⟨s.timer, false⟩).timer s
  have hfire := helapse.trans (underflow_cycleFrame _)
  unfold batch
  dsimp only
  split_ifs
  · exact (raise_cycleFrame _ s).runFrame _ _
  · exact hfire.runFrame _ _
  · exact hfire.runFrame _ _
  · exact helapse.runFrame _ _

/-! ### W's commands -/

/-- The envelope generator's own state (10_state.md R34, R35). -/
def State.envelope (s : State) : BitVec 4 × BitVec 3 := (s.volume, s.envCnt)

theorem RunFrame.envelope {s t : State} (h : RunFrame s t) : t.envelope = s.envelope := by
  rw [h.eq]
  rfl

theorem raise_envelope (x : FaultCode) (s : State) : (raise x s).envelope = s.envelope := by
  rw [raise_frame]
  rfl

theorem insertEvent_envelope (amp : Int) (c : Cycle) (s : State) : (insertEvent amp c s).envelope = s.envelope := by
  rw [insertEvent_frame]
  rfl

theorem readReg_envelope (sel : BitVec 3) (s : State) : (readReg sel s).envelope = s.envelope := by
  unfold readReg
  split
  · rfl
  · exact raise_envelope _ s

theorem markSweep_envelope (d : Byte) (s : State) : (markSweep d s).envelope = s.envelope := by
  unfold markSweep
  split <;> rfl

/-- Without bit 7 there is no reload (41 R157, 42 R183). -/
theorem writeFhi_envelope {d : Byte} (hd : ¬ 128 ≤ d.toNat) (s : State) : (writeFhi d s).envelope = s.envelope := by
  rw [writeFhi, if_neg fun h => hd ((fhiInit_iff d).1 h), markLength_eq]
  rfl

/-- The commands that change the envelope (42 R190). -/
def changesEnvelope (i : Instr) : Prop :=
  (∃ d, i = .wrEnv d) ∨ (∃ d, i = .wrFhi d ∧ 128 ≤ d.toNat) ∨ i = .envclk ∨ i = .rst

theorem exec_w_envelope {i : Instr} {s t : State} (hw : Agent.w.owns i = true) (hi : ¬ changesEnvelope i)
    (h : exec i s = .next t) : t.envelope = s.envelope := by
  have rel {f : State → State} :=
    transact_rel (R := fun s t => t.envelope = s.envelope) (f := f) (s := s) (t := t) rfl
  have kind {k : ChKind} {f : State → State} (hf : (f s).envelope = s.envelope) : (forKind k f s).envelope = s.envelope :=
    forKind_rel (R := fun s t => t.envelope = s.envelope) (raise_envelope _ s) fun _ => hf
  cases i with
  | nop => exact rel (f := fun u => u) rfl h
  | wrSwp d => exact rel (kind (f := fun u => markSweep d (setReg 0 d u)) (markSweep_envelope d _)) h
  | wrWon d | wrLen d | wrWlen d | wrWvol d | wrw idx d | rdw idx => exact rel (kind rfl) h
  | wrFlo d => exact rel (f := fun u => recomputePeriod (setReg 3 d u)) rfl h
  | wrFhi d => exact rel (writeFhi_envelope (fun hd => hi (.inr (.inl ⟨d, rfl, hd⟩))) s) h
  | rd sel => exact rel (readReg_envelope sel s) h
  | ins amp c => exact rel (insertEvent_envelope _ c s) h
  | cyc => exact rel (oneCycle_runFrame s).envelope h
  | emu n => exact rel (startEmu_runFrame _ s).envelope h
  | fdivn n => exact rel (batch_runFrame _ s).envelope h
  | wrEnv d => exact absurd (.inl ⟨d, rfl⟩) hi
  | envclk => exact absurd (.inr (.inr (.inl rfl))) hi
  | upd | rnd | oclr | rst => cases hw

/-! ### Steps -/

theorem envelope_of_unitPart {s t : State} (h : t.unitPart = s.unitPart) : t.envelope = s.envelope :=
  congrArg (fun p => (p.volume, p.envCnt)) h

/-- Settles O35: by what the step runs; a command of W that changes the envelope is one of the four. -/
theorem onlyEnvelopeCommandsChangeVolume : Obligations.OnlyEnvelopeCommandsChangeVolume := by
  intro s t h hne
  have hchanged : t.envelope ≠ s.envelope := fun heq =>
    hne.elim (absurd (congrArg Prod.fst heq)) (absurd (congrArg Prod.snd heq))
  rcases step_units_cases h with hsame | ⟨e, _, _, rfl⟩ | ⟨i, s', hstart, hs', hw, hx⟩ | hrst
  · exact absurd (envelope_of_unitPart hsame) hchanged
  · have hcycle := (emuCycle_runFrame e (takeTurn s)).envelope
    exact absurd (hcycle.trans (envelope_of_unitPart (takeTurn_unitPart s))) hchanged
  · refine ⟨i, hstart, ?_⟩
    by_contra hi
    exact hchanged ((exec_w_envelope hw hi hx).trans (envelope_of_unitPart hs'))
  · exact ⟨.rst, hrst, .inr (.inr (.inr rfl))⟩

end Sys2Proof.Machine
end

section
/-! PROOF. `INS`: the record it appends and the insertion that is coalesced (43_event_ring.md R202 to R205). -/

namespace Sys2Proof.Machine

theorem exec_ins_running {s : State} (hs : s.Running) (b : Byte) (c : Cycle) :
    exec (.ins b c) s = .next { insertRecord (s.insAmp b) c s with lock := .free } :=
  execIns_eq b c s hs

/-! ### The slots of the new record and of the one before -/

theorem prev_ne {s : State} {a : Nat} (h : a < s.cfg.ringN) : s.prev a ≠ a := by
  have := s.cfg.ringN_ge
  rw [State.prev, cycDec_cases _ a h]
  split_ifs <;> omega

theorem prev_next {s : State} {a : Nat} (h : a < s.cfg.ringN) : s.prev (s.next a) = a := by
  have hnext : s.next a = if a + 1 = s.cfg.ringN then 0 else a + 1 := cycInc_cases _ a h
  rw [State.prev, cycDec_cases _ _ (next_lt s a), hnext]
  by_cases hlast : a + 1 = s.cfg.ringN
  · simp [← hlast]
  · simp [hlast]

section

variable {s : State} (hn : s.newest < s.cfg.ringN) (amp : Int) (c : Cycle)

theorem slot_newest_appended : (appended amp c s).slot s.newest = ⟨c, 0, true, amp⟩ := by
  rw [slot_appended, if_pos rfl]

include hn

theorem slot_prev_appended (hv : s.wrValid = true) :
    (appended amp c s).slot (s.prev s.newest) = { s.slot (s.prev s.newest) with stop := c, isOpen := false } := by
  rw [slot_appended, if_neg (prev_ne hn), if_pos ⟨hv, rfl⟩]
  rfl

/-- The record just appended is the most recent one (43 R202). -/
theorem lastRecord_appended : (appended amp c s).lastRecord = ⟨c, 0, true, amp⟩ := by
  have hslot : (appended amp c s).prev (appended amp c s).newest = s.newest := by
    rw [appended_frame]
    exact prev_next hn
  rw [State.lastRecord, hslot, slot_newest_appended]

end

/-! ### The command -/

theorem insertRecord_appends {amp : Int} {c : Cycle} {s : State} (hc : 0 ≤ c.toInt) (hnew : s.coalesces amp = false)
    (hord : s.outOfOrder c = false) (hfull : s.ringFull = false) : insertRecord amp c s = appended amp c s := by
  simp [insertRecord, not_lt.2 hc, hnew, hord, hfull, appended]

theorem insertRecord_coalesced {amp : Int} {c : Cycle} {s : State} (hc : 0 ≤ c.toInt) (h : s.coalesces amp = true) :
    insertRecord amp c s = s := by
  simp [insertRecord, not_lt.2 hc, h]

/-- Settles O38: the slots of the state with the record appended. -/
theorem insertAppends : Obligations.InsertAppends := by
  intro s b c hs hlock hn hc hnew hord hfull
  refine ⟨appended (s.insAmp b) c s, ?_, appended_frame _ c s, slot_newest_appended _ c, insAmp_wide s b,
    slot_prev_appended hn _ c, fun a hne hprev => ?_⟩
  · have hfree : (appended (s.insAmp b) c s).lock = .free := by rw [appended_frame]; exact hlock
    rw [exec_ins_running hs, insertRecord_appends hc hnew hord hfull, ← hfree]
  · rw [read_appended, if_neg hne, if_neg fun h => hprev h.1 h.2]

/-- Settles O39: the test for coalescing comes before the one for room. -/
theorem coalescedInsertionChangesNothing : Obligations.CoalescedInsertionChangesNothing := by
  intro s b c hs hlock hc hv hamp
  have hcoalesces : s.coalesces (s.insAmp b) = true := by simp [State.coalesces, State.lastRecord, hv, hamp]
  rw [exec_ins_running hs, insertRecord_coalesced hc hcoalesces, ← hlock]

end Sys2Proof.Machine
end

section
/-! PROOF. How many records `UPD` retires, and that the most recent one is never among them (43_event_ring.md R211 to
R214). -/

namespace Sys2Proof.Machine

/-! ### Fully consumed records -/

/-- What the loop tests of slot `oldest` is whether the first live record is fully consumed. -/
theorem consumed_iff {s : State} (hr : s.CursorsInRange) (ref : Cycle) :
    s.consumed ref = true ↔ s.liveConsumed ref 0 := by
  have hfirst : s.slot s.oldest = s.liveRecord 0 := by rw [State.liveRecord, liveSlot_zero hr]
  have hsecond : s.slot (s.next s.oldest) = s.liveRecord 1 := rfl
  have honly : s.next s.oldest = s.newest ↔ 0 + 1 = s.live := by
    have h1 : 1 < s.cfg.ringN := s.cfg.ringN_ge
    rw [← liveSlot_live hr]
    exact ⟨liveSlot_injective s h1 (live_lt s), fun h => by rw [← h]; rfl⟩
  simp only [State.consumed, State.liveConsumed, hfirst, hsecond, ne_eq, honly]
  split_ifs <;> simp

theorem liveConsumed_retireOne {s : State} (hr : s.CursorsInRange) (hne : s.oldest ≠ s.newest) (ref : Cycle) (j : Nat) :
    (retireOne s).liveConsumed ref j ↔ s.liveConsumed ref (j + 1) := by
  have hlast : j + 1 = (retireOne s).live ↔ j + 1 + 1 = s.live := by
    rw [← live_retireOne hr hne, Nat.add_right_cancel_iff]
  simp only [State.liveConsumed, liveRecord_retireOne, ne_eq, hlast]

/-! ### The loop -/

/-- The first `n` live records are fully consumed at `ref`, and the next, if there is one, is not. -/
structure ConsumedUpTo (ref : Cycle) (s : State) (n : Nat) : Prop where
  le       : n ≤ s.live
  consumed : ∀ j, j < n → s.liveConsumed ref j
  kept     : n < s.live → ¬ s.liveConsumed ref n

theorem ConsumedUpTo.zero {ref : Cycle} {s : State} (h : 0 < s.live → ¬ s.liveConsumed ref 0) :
    ConsumedUpTo ref s 0 where
  le := Nat.zero_le _
  consumed j hj := absurd hj (Nat.not_lt_zero j)
  kept := h

theorem ConsumedUpTo.succ {ref : Cycle} {s : State} {n : Nat} (hr : s.CursorsInRange) (hne : s.oldest ≠ s.newest)
    (hfirst : s.liveConsumed ref 0) (h : ConsumedUpTo ref (retireOne s) n) : ConsumedUpTo ref s (n + 1) := by
  have hlive := live_retireOne hr hne
  have hshift := liveConsumed_retireOne hr hne ref
  refine ⟨by have := h.le; omega, fun j hj => ?_, fun hn => ?_⟩
  · cases j with
    | zero => exact hfirst
    | succ j => exact (hshift j).1 (h.consumed j (by omega))
  · rw [← hshift n]
    exact h.kept (by omega)

/-- With as much fuel as there are live records, the loop stops at the first that is not fully consumed (43 R212). -/
theorem retire_consumedUpTo (ref : Cycle) (fuel : Nat) {s : State} (hr : s.CursorsInRange) (hfuel : s.live = fuel) :
    ∃ n, retire ref fuel s = { s with oldest := s.liveSlot n } ∧ ConsumedUpTo ref s n := by
  induction fuel generalizing s with
  | zero =>
    exact ⟨0, by rw [liveSlot_zero hr]; rfl, .zero fun h => absurd hfuel (Nat.ne_of_gt h)⟩
  | succ fuel ih =>
    have hne : s.oldest ≠ s.newest := (live_pos_iff hr).1 (by omega)
    rw [retire_succ]
    by_cases hc : s.consumed ref = true
    · have hr' : (retireOne s).CursorsInRange := ⟨hr.newest_lt, next_lt s _, hr.pwe_lt⟩
      have hlive := live_retireOne hr hne
      obtain ⟨n, hretire, hn⟩ := ih hr' (by omega)
      refine ⟨n + 1, ?_, hn.succ hr hne ((consumed_iff hr ref).1 hc)⟩
      rw [if_pos ⟨hne, hc⟩, hretire, ← liveSlot_succ]
      rfl
    · refine ⟨0, ?_, .zero fun _ => ?_⟩
      · rw [if_neg fun h => hc h.2, liveSlot_zero hr]
      · rwa [← consumed_iff hr]

/-! ### The command -/

theorem exec_upd_running {s : State} (hs : s.Running) (ref : Cycle) :
    exec (.upd ref) s = .next { updateQueue ref s with lock := .free } :=
  execUpd_eq ref s hs

/-- Settles O41: `UPD` is the loop with its fuel and the snapshot. -/
theorem updRetiresConsumedRecords : Obligations.UpdRetiresConsumedRecords := by
  intro s ref hs hlock hr
  obtain ⟨n, hretire, hn⟩ := retire_consumedUpTo ref s.live hr rfl
  have hupd : updateQueue ref s = { s with oldest := s.liveSlot n, pwe := s.newest } := by
    rw [updateQueue_frame]
    exact congrArg (fun u : State => { s with oldest := u.oldest, pwe := s.newest }) hretire
  exact ⟨n, hn.le, by rw [exec_upd_running hs, hupd, ← hlock], hn.consumed, hn.kept⟩

/-! ### The most recent record -/

/-- Under the ring's invariants a live record is fully consumed iff a later one has started before `ref` (43 R213): the
last one is open, any other ends where the next starts. -/
theorem liveConsumed_iff {s : State} (hs : s.RingInv) (ref : Cycle) {j : Nat} (hj : j < s.live) :
    s.liveConsumed ref j ↔ j + 1 < s.live ∧ (s.liveRecord (j + 1)).start.toInt < ref.toInt := by
  rw [State.liveConsumed, hs.lastOpen j hj]
  by_cases hlast : j + 1 = s.live
  · simp [hlast]
  · have hnext : j + 1 < s.live := by omega
    simp [hlast, hnext, (hs.abut j hnext).1]

/-- Settles O42: from O41, each retired record having a successor. -/
theorem mostRecentRecordIsNeverRetired : Obligations.MostRecentRecordIsNeverRetired := by
  intro s ref hs hlock hinv
  obtain ⟨n, hle, hexec, hconsumed, hkept⟩ := updRetiresConsumedRecords s ref hs hlock hinv.range
  have hretired : ∀ j, j < n → j + 1 < s.live ∧ (s.liveRecord (j + 1)).start.toInt < ref.toInt := fun j hj =>
    (liveConsumed_iff hinv ref (by omega)).1 (hconsumed j hj)
  refine ⟨n, hexec, hretired, fun hn hstart => ?_, fun hempty => ?_⟩
  · exact hkept (by omega) ((liveConsumed_iff hinv ref (by omega)).2 ⟨hn, hstart⟩)
  · have hlt := live_lt s
    have hn : n = s.live := liveSlot_injective s (by omega) hlt (hempty.trans (liveSlot_live hinv.range).symm)
    have hzero : s.live = 0 := by
      by_contra hpos
      have := (hretired (n - 1) (by omega)).1
      omega
    have hmeet := (live_eq_zero_iff hinv.range).1 hzero
    rw [← Bool.not_eq_true, hinv.lastKept]
    exact not_not.2 hmeet

end Sys2Proof.Machine
end

section
/-! PROOF. The insertions of the source are in order (43_event_ring.md R206, R216). -/

namespace Sys2Proof.Machine

/-- No fault of the stamp's, and no record stamped later than the count, which is not negative. -/
def State.InOrder (s : State) : Prop := s.fault ≠ .badArg ∧ s.fault ≠ .order ∧ s.CycInv ∧ s.StampInv

theorem raise_inOrder {x : FaultCode} (hbad : x ≠ .badArg) (hord : x ≠ .order) {s : State} (h : s.InOrder) :
    (raise x s).InOrder := by
  unfold raise
  split_ifs
  · exact ⟨hbad, hord, h.2.2⟩
  · exact h

/-! ### Counting -/

theorem takeTurn_inOrder {s : State} (h : s.InOrder) : (takeTurn s).InOrder := by
  unfold takeTurn
  split <;> exact h

theorem elapse_inOrder {n : Nat} {s : State} (ho : s.cycOverflows n = false) (timer : BitVec 14) (h : s.InOrder) :
    (elapse n timer s).InOrder := by
  obtain ⟨hbad, hord, hcyc, hstamp⟩ := h
  have hgrows : s.cyc.toInt ≤ (elapse n timer s).cyc.toInt := by
    have := advanceCyc_toInt ho
    simp only [elapse]
    omega
  exact ⟨hbad, hord, hcyc.trans hgrows, fun hv => (hstamp hv).trans hgrows⟩

/-! ### The insertion of the source -/

theorem appended_inOrder {u : State} (hn : u.newest < u.cfg.ringN) (amp : Int) (h : u.InOrder) :
    (appended amp u.cyc u).InOrder := by
  obtain ⟨hbad, hord, hcyc, _⟩ := h
  have hsame : (appended amp u.cyc u).cyc = u.cyc := by rw [appended_frame]
  have hfault : (appended amp u.cyc u).fault = u.fault := by rw [appended_frame]
  refine ⟨by rwa [hfault], by rwa [hfault], by rwa [State.CycInv, hsame], fun _ => ?_⟩
  rw [lastRecord_appended hn, hsame]

/-- The stamp is the count: not negative, and not below the last record's start. -/
theorem insertSource_inOrder {u : State} (hn : u.newest < u.cfg.ringN) (h : u.InOrder) : (insertSource u).InOrder := by
  have ⟨_, _, hcyc, hstamp⟩ := h
  rw [insertSource, insertEvent_eq]
  show (insertRecord u.sourceAmp u.cyc u).InOrder
  rcases insertRecord_cases u.sourceAmp u.cyc u with ⟨hneg, _⟩ | ⟨_, _, e⟩ | ⟨_, _, hlate, _⟩ | ⟨_, _, _, _, e⟩ |
    ⟨_, _, _, _, e⟩
  · exact absurd hneg (not_lt.2 hcyc)
  · rwa [e]
  · simp only [State.outOfOrder, Bool.and_eq_true, decide_eq_true_eq] at hlate
    exact absurd hlate.2 (not_lt.2 (hstamp hlate.1))
  · rw [e]
    exact raise_inOrder (by decide) (by decide) h
  · rw [e]
    exact appended_inOrder hn _ h

theorem underflow_inOrder {s : State} (hn : s.newest < s.cfg.ringN) (h : s.InOrder) : (underflow s).InOrder := by
  show (insertSource (advanceStep s)).InOrder
  rw [advanceStep_frame]
  exact insertSource_inOrder hn h

/-! ### The commands -/

theorem writeFired_inOrder (f : Bool) {u : State} (h : u.InOrder) : (writeFired f u).InOrder := by
  unfold writeFired
  split <;> exact h

section

variable {s : State} (hn : s.newest < s.cfg.ringN) (h : s.InOrder)
include hn h

theorem cycle_inOrder : (cycle s).state.InOrder := by
  rw [cycle_state]
  split_ifs with ho
  · exact raise_inOrder (by decide) (by decide) h
  · exact underflow_inOrder hn (elapse_inOrder (by simpa using ho) _ h)
  · exact elapse_inOrder (by simpa using ho) _ h

theorem oneCycle_inOrder : (oneCycle s).InOrder := by
  rw [oneCycle_eq]
  exact writeFired_inOrder _ (cycle_inOrder hn h)

theorem emuCycle_inOrder (e : EmuRun) : (emuCycle e s).InOrder := by
  unfold emuCycle
  dsimp only
  split_ifs <;> exact cycle_inOrder hn h

theorem startEmu_inOrder (n : Nat) : (startEmu n s).InOrder := by
  unfold startEmu
  split
  · exact h
  · exact emuCycle_inOrder hn h _

theorem batch_inOrder (n : Nat) : (batch n s).InOrder := by
  cases ho : s.cycOverflows n with
  | true =>
    rw [batch, if_pos ho]
    exact raise_inOrder (by decide) (by decide) h
  | false =>
    have hcount := elapse_inOrder ho (ticks s.period n ⟨s.timer, false⟩).timer h
    rcases Nat.eq_zero_or_pos (fireCount s.period n s.timer) with hnone | hfire
    · rw [batch_quiet ho hnone]
      exact hcount
    · rw [batch_firing ho hfire, ← underflow_elapse]
      exact writeFired_inOrder true (underflow_inOrder hn hcount)

theorem exec_inOrder {i : Instr} {t : State} (hi : runsCycles i) (hx : exec i s = .next t) : t.InOrder := by
  have rel {f : State → State} (hf : (f s).InOrder) : transact f s = .next t → t.InOrder :=
    transact_rel (R := fun _ u => u.InOrder) h hf
  rcases hi with rfl | ⟨n, rfl⟩ | ⟨n, rfl⟩
  · exact rel (oneCycle_inOrder hn h) hx
  · exact rel (startEmu_inOrder hn h _) hx
  · exact rel (batch_inOrder hn h _) hx

end

/-- Settles O31: in a running block, every command that lets cycles elapse and every later cycle of an `EMU`. -/
theorem sourceInsertionsAreInOrder : Obligations.SourceInsertionsAreInOrder := by
  intro s t hs hn hcyc hstamp ht
  have hfault : s.fault = .none := hs
  have h : s.InOrder := ⟨by simp [hfault], by simp [hfault], hcyc, hstamp⟩
  rcases ht with ⟨i, hi, hx⟩ | ⟨hemu, ha, hstep⟩
  · exact exec_inOrder hn h hi hx
  · obtain ⟨e, he⟩ := Option.isSome_iff_exists.1 hemu
    rw [(stepContinuesOrIdles s hs).1 e ha he] at hstep
    cases hstep
    exact emuCycle_inOrder (by simpa using hn) (takeTurn_inOrder h) e

end Sys2Proof.Machine
end

section
/-! PROOF. `OCLR` and the begin step of `RND` (44_renderer.md R232 to R234, R241). -/

namespace Sys2Proof.Machine

/-! ### Clearing frames -/

theorem read_clearFrames (n : Nat) (s : State) (k : Nat) :
    Memory.read (clearFrames n s).out k = if k < n then some 0 else Memory.read s.out k := by
  induction n with
  | zero => rfl
  | succ n ih =>
    rw [clearFrames, setFrame_out, Memory.read_write, ih]
    by_cases hk : k = n
    · simp [hk]
    · have hlt : k < n + 1 ↔ k < n := by omega
      simp only [if_neg hk, hlt]

theorem frame_eq_of_read {s : State} {k : Nat} {v : Int} (h : Memory.read s.out k = some v) : s.frame k = v := by
  rw [State.frame, h]

/-- Settles O44: what each frame reads after the loop. (The model's loop itself is called `clearFrames`.) -/
theorem oclrClearsFrames : Obligations.ClearFrames := by
  intro s frames hs
  refine ⟨clearFrames frames.toNat s, transact_running _ s hs, clearFrames_only_out _ s, fun k hk => ?_, fun k hk => ?_⟩
  · exact frame_eq_of_read (by rw [read_clearFrames, if_pos hk])
  · rw [read_clearFrames, if_neg hk.not_gt]

/-! ### Beginning a render -/

/-- The `BAD_ARG` cases of R241: no rate, or a frame whose position is out of range. -/
theorem badRender_iff (s : State) (frames : Nat) (fs : BitVec 32) (ref : Cycle) :
    s.badRender frames fs ref = true ↔
      fs = 0 ∨ (0 < frames ∧ maxI64 < framePos s.cfg.cpuHz fs ref (frames - 1)) := by
  simp [State.badRender]

theorem beginRender_legal {s : State} {frames : Nat} {fs : BitVec 32} {ref : Cycle}
    (h : s.badRender frames fs ref = false) :
    beginRender frames fs ref s = { updateQueue ref s with
      rc := (updateQueue ref s).oldest, render := some ⟨0, frames, fs, ref⟩ } := by
  simp [beginRender, h]

theorem beginRender_bad {s : State} (hs : s.Running) {frames : Nat} {fs : BitVec 32} {ref : Cycle}
    (h : s.badRender frames fs ref = true) : beginRender frames fs ref s = { s with fault := .badArg } := by
  rw [beginRender, if_pos h, raise_running _ _ hs]

theorem exec_rnd_running {s : State} (hs : s.Running) (frames : BitVec 12) (fs : BitVec 32) (ref : Cycle) :
    exec (.rnd frames fs ref) s = .next { beginRender frames.toNat fs ref s with lock := .free } :=
  execRnd_eq frames fs ref s hs

theorem toNat_pos_iff (n : BitVec 12) : 0 < n.toNat ↔ n ≠ 0 := by
  rw [Nat.pos_iff_ne_zero, BitVec.toNat_ne]
  rfl

/-- Settles O45: the two cases are those of `badRender`, and a legal begin is `UPD` with `rc` and the operands set. -/
theorem renderBegins : Obligations.RenderBegins := by
  intro s frames fs ref hs hlock
  have hbad := badRender_iff s frames.toNat fs ref
  rw [toNat_pos_iff] at hbad
  refine ⟨fun ⟨hfs, hlast⟩ => ?_, fun h => ?_⟩
  · have hlegal : s.badRender frames.toNat fs ref = false := by
      rw [← Bool.not_eq_true, hbad]
      exact not_or.2 ⟨hfs, fun ⟨hne, hlt⟩ => (hlast hne).not_gt hlt⟩
    refine ⟨_, exec_upd_running hs ref, ?_⟩
    rw [exec_rnd_running hs, beginRender_legal hlegal]
  · rw [exec_rnd_running hs, beginRender_bad hs (hbad.2 h), ← hlock]

end Sys2Proof.Machine
end

section
/-! PROOF. One frame of a render: the scan against the window's sample (44_renderer.md R235 to R239). -/

namespace Sys2Proof.Machine

/-! ### Positions -/

theorem framePos_mono (cpuHz : Nat) (fs : BitVec 32) (ref : Cycle) {j k : Nat} (h : j ≤ k) :
    framePos cpuHz fs ref j ≤ framePos cpuHz fs ref k :=
  Int.add_le_add_left (Int.ofNat_le.2 (Nat.div_le_div_right (Nat.mul_le_mul_right _ h))) _

/-- `s` with its scan cursor at `c`. -/
def State.scanAt (s : State) (c : Nat) : State := { s with rc := c }

theorem passedFor_mono {s : State} {p q : Int} (h : s.PassedFor p) (hpq : p ≤ q) : s.PassedFor q :=
  fun j hj q' hq => h j hj q' (hpq.trans hq)

/-! ### The scan -/

section

variable {s : State} {c : Nat} (hr : s.CursorsInRange) (hc : s.InWindow c)
include hr hc

/-- A step of the cursor inside the window is one place on. -/
theorem dist_next (hne : c ≠ s.pwe) : s.dist s.oldest (s.next c) = s.dist s.oldest c + 1 := by
  refine cycDist_cycInc_right hr.oldest_lt hc.lt fun hwrap => ?_
  have hinside : s.dist s.oldest c < s.dist s.oldest s.pwe := hc.dist_lt hr hne
  have hlast := dist_lt s s.oldest s.pwe
  rw [cycInc_cases _ _ hc.lt] at hwrap
  rw [State.dist, cycDist_cases _ _ _ hr.oldest_lt hc.lt] at hinside
  split_ifs at hwrap hinside <;> omega

theorem dist_add_dist_pwe : s.dist s.oldest c + s.dist c s.pwe = s.dist s.oldest s.pwe := by
  obtain ⟨hlt, hdist⟩ := hc
  have ho := hr.oldest_lt
  have hp := hr.pwe_lt
  simp only [State.dist] at hdist ⊢
  rw [cycDist_cases _ _ _ ho hlt, cycDist_cases _ _ _ ho hp] at hdist ⊢
  rw [cycDist_cases _ _ _ hlt hp]
  split_ifs at hdist ⊢ <;> omega

theorem slot_eq_liveRecord : s.slot c = s.liveRecord (s.dist s.oldest c) := by
  rw [State.liveRecord, liveSlot_dist hr hc.lt]

end

section

variable {s : State} {p : Int} {c : Nat} (hpassed : (s.scanAt c).PassedFor p)
include hpassed

theorem not_covers_of_passed {j : Nat} (hj : j < s.dist s.oldest c) : covers (s.liveRecord j) p = false :=
  hpassed j hj p le_rfl

/-- The scan has reached the end of the window: silence (44 R236). -/
theorem windowSample_of_passed_all (hend : s.dist s.oldest s.pwe ≤ s.dist s.oldest c) : s.windowSample p = 0 :=
  windowSample_eq_zero fun _ hj => not_covers_of_passed hpassed (hj.trans_le hend)

variable (hs : s.RingInv) (hc : s.InWindow c) (hne : c ≠ s.pwe)
include hs hc

/-- The record at the cursor starts later, and so do all after it: silence. -/
theorem windowSample_of_starts_later (hstart : p < (s.slot c).start.toInt) : s.windowSample p = 0 := by
  refine windowSample_eq_zero fun j hj => ?_
  rcases lt_or_ge j (s.dist s.oldest c) with hbefore | hafter
  · exact not_covers_of_passed hpassed hbefore
  · rw [slot_eq_liveRecord hs.range hc] at hstart
    have hmono := liveRecord_start_mono hs hafter (hj.trans_le hs.window)
    simp [covers, hstart.trans_le hmono]

include hne

/-- The record at the cursor covers the position, and none before it does. -/
theorem windowSample_of_covers (hcovers : covers (s.slot c) p = true) : s.windowSample p = s.sample (s.slot c) := by
  rw [slot_eq_liveRecord hs.range hc] at hcovers ⊢
  exact windowSample_eq_sample (hc.dist_lt hs.range hne) hcovers fun _ => not_covers_of_passed hpassed

/-- The record at the cursor has ended at `p`, so it covers nothing from there on and may be passed (44 R238). -/
theorem passedFor_next (hopen : ¬ (s.slot c).isOpen = true) (hstop : (s.slot c).stop.toInt ≤ p) :
    (s.scanAt (s.next c)).PassedFor p := by
  intro j hj q hq
  have hnext := dist_next hs.range hc hne
  have hj : j < s.dist s.oldest c + 1 := lt_of_lt_of_eq hj hnext
  rcases Nat.lt_succ_iff_lt_or_eq.1 hj with hj | rfl
  · exact hpassed j hj q hq
  · have hcovers : covers (s.slot c) q = false := by simp [covers, hopen, hstop.trans hq]
    rw [slot_eq_liveRecord hs.range hc] at hcovers
    exact hcovers

end

/-- What a scan at position `p` from cursor `c` is to answer: the window's sample, and a cursor that has not gone back and
has passed nothing that covers a position from `p` on. -/
structure ScanResult (s : State) (p : Int) (c : Nat) (x : Scan) : Prop where
  sample  : x.sample = s.windowSample p
  forward : s.dist s.oldest c ≤ s.dist s.oldest x.rc
  passed  : (s.scanAt x.rc).PassedFor p

/-- By the branches of the loop, with as much fuel as there are places to the end of the window (44 R236, R238). -/
theorem scan_scanResult {s : State} (hs : s.RingInv) {p : Int} (fuel : Nat) {c : Nat} (hc : s.InWindow c)
    (hfuel : s.dist s.oldest c + fuel = s.dist s.oldest s.pwe) (hpassed : (s.scanAt c).PassedFor p) :
    ScanResult s p c (scan s p fuel c) := by
  induction fuel generalizing c with
  | zero => exact ⟨(windowSample_of_passed_all hpassed hfuel.ge).symm, le_rfl, hpassed⟩
  | succ n ih =>
    have hne : c ≠ s.pwe := by
      rintro rfl
      omega
    rw [scan_succ]
    split_ifs with hstart hcovers
    · exact ⟨(windowSample_of_starts_later hpassed hs hc (hstart.resolve_left hne)).symm, le_rfl, hpassed⟩
    · have hstart : (s.slot c).start.toInt ≤ p := not_lt.1 (not_or.1 hstart).2
      have hcovers : covers (s.slot c) p = true := by simpa [covers, hstart] using hcovers
      exact ⟨(windowSample_of_covers hpassed hs hc hne hcovers).symm, le_rfl, hpassed⟩
    · obtain ⟨hopen, hstop⟩ := not_or.1 hcovers
      have hnext := dist_next hs.range hc hne
      obtain ⟨hsample, hforward, hpassed'⟩ :=
        ih (hc.next hs.range hne) (by omega) (passedFor_next hpassed hs hc hne hopen (not_lt.1 hstop))
      exact ⟨hsample, by omega, hpassed'⟩

/-! ### The frame -/

/-- The sample of a window depends on the parameters and the ring's part of the state alone. -/
theorem windowSample_view {s t : State} (hc : t.cfg = s.cfg) (hv : t.ringView = s.ringView) (p : Int) :
    t.windowSample p = s.windowSample p := by
  obtain ⟨_, _, holdest, hpwe, _, _⟩ := RingView.mk.inj hv
  have hrecord := liveRecord_congr hc hv
  refine windowSample_congr ?_ (fun j _ => by rw [hrecord]) fun j => ?_
  · simp only [State.dist, hc, holdest, hpwe]
  · rw [State.sample, State.sample, hrecord, hc]

theorem takeTurn_windowSample (s : State) (p : Int) : (takeTurn s).windowSample p = s.windowSample p :=
  windowSample_view (takeTurn_cfg s) (takeTurn_ringBlind.view s) p

/-- A frame that nothing has written depends on the parameters (log 13), any other on the buffer alone. -/
theorem frame_congr {s t : State} (hc : t.cfg = s.cfg) {k : Nat} (hread : Memory.read t.out k = Memory.read s.out k) :
    t.frame k = s.frame k := by
  rw [State.frame, State.frame, hread, hc]

/-- What R's turn at frame `r.k` changes, and to what (44 R236 to R239). -/
structure FrameEffect (r : RenderRun) (s t : State) : Prop where
  frame   : t = { takeTurn s with out := t.out, rc := t.rc, render := some { r with k := r.k + 1 } }
  added   : t.frame r.k =
    narrow s.cfg.outW (s.frame r.k + s.windowSample (framePos s.cfg.cpuHz r.fs r.ref r.k))
  others  : ∀ k, k ≠ r.k → Memory.read t.out k = Memory.read s.out k
  forward : s.dist s.oldest s.rc ≤ s.dist s.oldest t.rc
  passed  : t.PassedFor (framePos s.cfg.cpuHz r.fs r.ref (r.k + 1))

theorem FrameEffect.cfg {r : RenderRun} {s t : State} (h : FrameEffect r s t) : t.cfg = s.cfg :=
  (congrArg State.cfg h.frame).trans (takeTurn_cfg s)

theorem FrameEffect.ringView {r : RenderRun} {s t : State} (h : FrameEffect r s t) : t.ringView = s.ringView :=
  (congrArg State.ringView h.frame).trans (takeTurn_ringBlind.view s)

/-- A turn used up changes nothing that a scan reads. -/
theorem takeTurn_passedFor {s : State} {p : Int} (h : s.PassedFor p) : (takeTurn s).PassedFor p := by
  simpa [State.PassedFor, State.dist, liveRecord_congr (takeTurn_cfg s) (takeTurn_ringBlind.view s)] using h

theorem renderFrame_frameEffect {r : RenderRun} {s : State} (hs : s.RingInv) (hri : s.RenderInv)
    (hr : s.render = some r) (hpassed : s.PassedFor (framePos s.cfg.cpuHz r.fs r.ref r.k)) :
    FrameEffect r s (renderFrame r (takeTurn s)) := by
  have hs' := takeTurn_ringBlind.safe.inv s hs
  have hframe : (takeTurn s).frame r.k = s.frame r.k := frame_congr (takeTurn_cfg s) (by rw [takeTurn_out])
  obtain ⟨_, _, hlt, hdist⟩ := renderInv_congr (takeTurn_readerPart s) hri r ((takeTurn_render s).trans hr)
  rw [← takeTurn_cfg] at hpassed
  obtain ⟨hsample, hforward, hpassed'⟩ := scan_scanResult hs' ((takeTurn s).dist (takeTurn s).rc (takeTurn s).pwe)
    ⟨hlt, hdist⟩ (dist_add_dist_pwe hs'.range ⟨hlt, hdist⟩) (takeTurn_passedFor hpassed)
  refine ⟨renderFrame_frame r _, ?_, fun k hk => ?_, ?_, ?_⟩
  · rw [← hframe, ← takeTurn_windowSample, ← takeTurn_cfg, ← hsample]
    exact frame_setFrame_same _ r.k _
  · exact (Memory.read_write_other _ _ _ _ hk).trans (by rw [takeTurn_out])
  · have hdist : (takeTurn s).dist (takeTurn s).oldest = s.dist s.oldest := by
      funext c
      simp [State.dist]
    rw [← hdist, ← takeTurn_rc s]
    exact hforward
  · rw [← takeTurn_cfg]
    exact passedFor_mono hpassed' (framePos_mono _ _ _ (Nat.le_succ r.k))

/-- Settles O46: R's turn runs the render's next step, a frame or the end. -/
theorem frameStepAddsTheWindowSample : Obligations.FrameStepAddsTheWindowSample := by
  intro s r hs hr ha
  have hstep : step s = .next (renderStep r (takeTurn s)) := (stepContinuesOrIdles s hs).2.1 r ha hr
  refine ⟨fun hend => ?_, fun hk hring hri hpassed => ?_⟩
  · rw [hstep, renderStep_at_end hend, renderEnd, takeTurn_samples]
  · obtain ⟨hframe, hadded, hothers, hforward, hpassed'⟩ := renderFrame_frameEffect hring hri hr hpassed
    exact ⟨_, by rw [hstep, renderStep, if_pos hk], hframe, hadded, hothers, hforward, hpassed'⟩

end Sys2Proof.Machine
end

section
/-! PROOF. A whole render without interference: the begin step, the frames and the end (44_renderer.md R231 to R243). -/

namespace Sys2Proof.Machine

/-! ### The frames and the end -/

/-- A render under way at frame `r.k` between two of R's turns, with the next `n` turns R's and `turns` after them. -/
structure MidRender (r : RenderRun) (n : Nat) (turns : List Agent) (s : State) : Prop where
  running : s.Running
  render  : s.render = some r
  ring    : s.RingInv
  inv     : s.RenderInv
  passed  : s.PassedFor (framePos s.cfg.cpuHz r.fs r.ref r.k)
  sched   : s.env.sched = List.replicate n .r ++ turns

/-- `s` with other turns to come. -/
def State.withSched (turns : List Agent) (s : State) : State := { s with env := { s.env with sched := turns } }

/-- The frames from `r.k` on have been rendered into `t` from the window of `s`, and no other was written. -/
structure RendersFrames (r : RenderRun) (s t : State) : Prop where
  added  : ∀ k, r.k ≤ k → k < r.frames → t.frame k =
    narrow s.cfg.outW (s.frame k + s.windowSample (framePos s.cfg.cpuHz r.fs r.ref k))
  others : ∀ k, k < r.k ∨ r.frames ≤ k → Memory.read t.out k = Memory.read s.out k

/-- A frame and then the frames after it: each is written once, and rendering changes no window. -/
theorem RendersFrames.cons {r : RenderRun} {s t u : State} (hrest : RendersFrames { r with k := r.k + 1 } t u)
    (hk : r.k < r.frames) (h : FrameEffect r s t) (hcfg : u.cfg = t.cfg) : RendersFrames r s u := by
  refine ⟨fun k hle hlt => ?_, fun k hk' => ?_⟩
  · rcases Nat.eq_or_lt_of_le hle with rfl | hlater
    · rw [frame_congr hcfg (hrest.others r.k (.inl (Nat.lt_succ_self _))), h.added]
    · have hbefore : t.frame k = s.frame k := frame_congr h.cfg (h.others k hlater.ne')
      rw [hrest.added k hlater hlt, h.cfg, hbefore, windowSample_view h.cfg h.ringView]
  · have hother : k < r.k + 1 ∨ r.frames ≤ k := hk'.imp_left Nat.lt_succ_of_lt
    exact (hrest.others k hother).trans (h.others k (by omega))

section

variable {r : RenderRun} {n : Nat} {turns : List Agent} {s : State} (h : MidRender r (n + 1) turns s)
include h

theorem MidRender.turn : s.nextAgent = .r ∧ takeTurn s = s.withSched (List.replicate n .r ++ turns) :=
  nextAgent_scheduled s .r _ h.sched

/-- R's turn at a frame leaves the render at the next one. -/
theorem MidRender.next (hk : r.k < r.frames) :
    ∃ t : State, step s = .next t ∧ FrameEffect r s t ∧ MidRender { r with k := r.k + 1 } n turns t := by
  obtain ⟨hagent, hturn⟩ := h.turn
  obtain ⟨hrun, hrender, hring, hri, hpassed, _⟩ := h
  obtain ⟨t, hstep, ht, hadded, hothers, hforward, hpassed'⟩ :=
    (frameStepAddsTheWindowSample s r hrun hrender hagent).2 hk hring hri hpassed
  have heffect : FrameEffect r s t := ⟨ht, hadded, hothers, hforward, hpassed'⟩
  rw [hturn] at ht
  refine ⟨t, hstep, heffect, ?_, ?_, stepKeepsTheRingInvariants s t hring hstep,
    stepKeepsTheRenderInvariant s t hring hri hstep, ?_, ?_⟩
  · exact (congrArg State.fault ht).trans hrun
  · exact congrArg State.render ht
  · rwa [heffect.cfg]
  · exact (congrArg (·.env.sched) ht).trans rfl

/-- R's turn past the last frame ends the render (44 R243). -/
theorem MidRender.last (hk : r.frames ≤ r.k) : step s = .next
    { s.withSched (List.replicate n .r ++ turns) with samples := s.samples + r.frames, render := none } := by
  obtain ⟨hagent, hturn⟩ := h.turn
  rw [(frameStepAddsTheWindowSample s r h.running h.render hagent).1 hk, hturn]

end

/-- The turns that a render under way still needs: one for each frame left, and one for the end. -/
theorem steps_midRender (n : Nat) {r : RenderRun} {turns : List Agent} {s : State} (h : MidRender r (n + 1) turns s)
    (hn : r.k + n = r.frames) : ∃ t : State, steps (n + 1) s = .next t ∧ RendersFrames r s t ∧
      t = { s.withSched turns with rc := t.rc, out := t.out, samples := s.samples + r.frames, render := none } := by
  induction n generalizing r s with
  | zero => exact ⟨_, steps_succ (h.last hn.ge) 0, ⟨fun k _ _ => by omega, fun _ _ => rfl⟩, rfl⟩
  | succ n ih =>
    have hk : r.k < r.frames := by omega
    obtain ⟨t, hstep, heffect, hmid⟩ := h.next hk
    obtain ⟨u, hsteps, hframes, hu⟩ := ih hmid (by simp only; omega)
    have hcfg : u.cfg = t.cfg := (congrArg State.cfg hu).trans rfl
    refine ⟨u, (steps_succ hstep _).trans hsteps, hframes.cons hk heffect hcfg, ?_⟩
    rw [heffect.frame, h.turn.2] at hu
    exact hu

/-! ### The begin step -/

/-- `UPD` retires the same records whatever the turns to come. -/
theorem updateQueue_withSched (ref : Cycle) (turns : List Agent) (s : State) :
    updateQueue ref (s.withSched turns) = (updateQueue ref s).withSched turns := by
  obtain ⟨w, hw⟩ := updateQueue_blindR ref (s.withSched turns) s
  have hseen : hideFromR (s.withSched turns) s = s.withSched turns := rfl
  have holdest : (updateQueue ref (s.withSched turns)).oldest = (updateQueue ref s).oldest := by
    rw [← hseen, hw]
    rfl
  rw [updateQueue_frame, holdest, updateQueue_frame ref s]
  rfl

theorem exec_upd_withSched {s u : State} (hs : s.Running) {ref : Cycle} (turns : List Agent)
    (h : exec (.upd ref) s = .next u) : exec (.upd ref) (s.withSched turns) = .next (u.withSched turns) := by
  have hs' : (s.withSched turns).Running := hs
  cases (exec_upd_running hs ref).symm.trans h
  rw [exec_upd_running hs', updateQueue_withSched]
  rfl

theorem exec_upd_frame {s : State} (hs : s.Running) (hlock : s.lock = .free) (ref : Cycle) :
    ∃ u : State, exec (.upd ref) s = .next u ∧ u = { s with oldest := u.oldest, pwe := u.pwe } := by
  refine ⟨_, exec_upd_running hs ref, ?_⟩
  rw [updateQueue_frame, ← hlock]

/-- What a legal begin step makes of the state that `UPD` leaves (44 R233). -/
def enterRender (r : RenderRun) (u : State) : State := { u with rc := u.oldest, render := some r }

section

variable (r : RenderRun) (turns : List Agent) (u : State)

theorem frame_enterRender (k : Nat) : (enterRender r (u.withSched turns)).frame k = u.frame k := rfl

theorem windowSample_enterRender (p : Int) : (enterRender r (u.withSched turns)).windowSample p = u.windowSample p :=
  windowSample_view rfl rfl p

/-- At `oldest` the cursor has passed nothing. -/
theorem enterRender_passedFor (p : Int) : (enterRender r u).PassedFor p := by
  intro j hj
  rw [enterRender, dist_self] at hj
  exact absurd hj (Nat.not_lt_zero j)

end

theorem enterRender_midRender {r : RenderRun} {n : Nat} {turns : List Agent} {u : State} (hu : u.Running)
    (hring : (enterRender r (u.withSched (List.replicate n .r ++ turns))).RingInv)
    (hinv : (enterRender r (u.withSched (List.replicate n .r ++ turns))).RenderInv) :
    MidRender r n turns (enterRender r (u.withSched (List.replicate n .r ++ turns))) :=
  ⟨hu, rfl, hring, hinv, enterRender_passedFor r _ _, rfl⟩

/-- R's turn with a legal `RND` next on its port. -/
theorem step_startsRender {s u : State} {frames : BitVec 12} {fs : BitVec 32} {ref : Cycle} {rest : List Word}
    (hs : s.Running) (hlock : s.lock = .free) (hrender : s.render = none)
    (hport : s.env.rPort = encode (.rnd frames fs ref) ++ rest)
    (hlegal : fs ≠ 0 ∧ (frames ≠ 0 → framePos s.cfg.cpuHz fs ref (frames.toNat - 1) ≤ maxI64))
    (hu : exec (.upd ref) (setPort .r rest s) = .next u) (n : Nat) :
    step (withTurns .r (n + 1) s) =
      .next (enterRender ⟨0, frames.toNat, fs, ref⟩ (u.withSched (List.replicate n .r ++ s.env.sched))) := by
  have hdecode : decodeOn s.cfg.kind .r s.env.rPort = .ok (.rnd frames fs ref, rest) := by
    rw [hport, decodeOn, decode_encode rfl]
    rfl
  have hstart : step (withTurns .r (n + 1) s) =
      exec (.rnd frames fs ref) ((setPort .r rest s).withSched (List.replicate n .r ++ s.env.sched)) :=
    stepRunsTheDecodedCommand (withTurns .r (n + 1) s) _ rest hs hrender nofun hdecode
  obtain ⟨v, hv, hbegin⟩ := (renderBegins ((setPort .r rest s).withSched (List.replicate n .r ++ s.env.sched))
    frames fs ref hs hlock).1 hlegal
  cases hv.symm.trans (exec_upd_withSched (s := setPort .r rest s) hs _ hu)
  exact hstart.trans hbegin

/-- Settles O47: the begin step, then the turns of the render that it leaves under way. -/
theorem uninterruptedRender : Obligations.UninterruptedRender := by
  intro s frames fs ref rest hs hlock hrender hring hport hfs hlast
  obtain ⟨u, hupd, hu⟩ := exec_upd_frame (s := setPort .r rest s) hs hlock ref
  have hcfg : u.cfg = s.cfg := by rw [hu, setPort_cfg]
  have hout : u.out = s.out := by rw [hu, setPort_out]
  have hsamples : u.samples = s.samples := by rw [hu, setPort_samples]
  have hrender' : u.render = none := by rw [hu, setPort_render, hrender]
  have hsched : u.env.sched = s.env.sched := by
    rw [hu]
    rfl
  have hrun : u.Running := by
    rw [hu]
    exact hs
  have hstep := step_startsRender hs hlock hrender hport ⟨hfs, hlast⟩ hupd (frames.toNat + 1)
  have hring' : (withTurns .r (frames.toNat + 2) s).RingInv := ringInv_congr (s := s) rfl rfl hring
  have hmid := enterRender_midRender hrun (stepKeepsTheRingInvariants _ _ hring' hstep)
    (stepKeepsTheRenderInvariant _ _ hring' (renderInv_of_none hrender) hstep)
  obtain ⟨t, hsteps, hframes, ht⟩ := steps_midRender frames.toNat hmid (Nat.zero_add _)
  refine ⟨t, u, (steps_succ hstep _).trans hsteps, hupd, ?_, fun k hk => ?_, fun k hk => ?_⟩
  · rw [← hsamples]
    refine ht.trans ?_
    simp only [enterRender, State.withSched]
    rw [← hrender', ← hsched]
  · have hadded := hframes.added k (Nat.zero_le k) hk
    rw [frame_enterRender, windowSample_enterRender, frame_congr hcfg (by rw [hout])] at hadded
    rw [← hcfg]
    exact hadded
  · rw [hframes.others k (.inr hk), ← hout]
    rfl

end Sys2Proof.Machine
end

section
/-! PROOF. The registers and the wave table: writes that only store, and reads (45_channel_glue_and_facade.md R260 to R262,
R266 to R269, R271). -/

namespace Sys2Proof.Machine

/-- A transaction of one kind only, in a running block of that kind. -/
theorem transact_forKind_fits {k : ChKind} {s : State} (hs : s.Running) (hk : s.cfg.kind = k) (f : State → State) :
    transact (forKind k f) s = .next (f s) := by
  rw [transact_running _ s hs, forKind_fits k f s hk]

/-- A transaction of one kind only, in a running block of the other kind, is no command there (30 R118). -/
theorem transact_forKind_other {k : ChKind} {s : State} (hs : s.Running) (hk : s.cfg.kind ≠ k) (f : State → State) :
    transact (forKind k f) s = .next { s with fault := .illegalCmd } := by
  rw [transact_running _ s hs, forKind_other k f s hk, raise_running _ s hs]

theorem markSweep_eq (d : Byte) (s : State) :
    markSweep d s = { s with ni := { s.ni with sweep := s.ni.sweep || decide (d.toNat ≠ 0) } } := by
  have hzero : d.toNat = 0 ↔ d = 0 := BitVec.toNat_inj (y := 0)
  unfold markSweep
  split_ifs with h
  · simp [hzero.2 h]
  · simp [mt hzero.1 h]

/-- Settles O14: each is a register write in its kind, `WR SWP` with its marker. -/
theorem storedOnlyWritesStore : Obligations.StoredOnlyWritesStore := by
  intro s d hs
  refine ⟨fun hk => ⟨?_, transact_forKind_fits hs hk _⟩,
    fun hk => ⟨transact_forKind_fits hs hk _, transact_forKind_fits hs hk _, transact_forKind_fits hs hk _⟩⟩
  have hwrite : exec (.wrSwp d) s = .next (markSweep d (setReg 0 d s)) :=
    transact_forKind_fits hs hk fun s => markSweep d (setReg 0 d s)
  rw [hwrite, markSweep_eq]
  rfl

/-- Settles O15: by whether the select exists. -/
theorem readRegister : Obligations.ReadRegister := by
  intro s sel hs
  refine ⟨fun h => ?_, fun h => ?_⟩
  · have hread := exec_rd hs h
    rwa [BitVec.ofNat_toNat, BitVec.setWidth_eq] at hread
  · have hread : exec (.rd sel) s = .next (readReg sel s) := transact_running _ s hs
    rw [hread, readReg, dif_neg (Nat.not_lt.2 h), raise_running _ s hs]

/-- Settles O17: both are commands of a `WAVE` instance only. -/
theorem waveTableAccess : Obligations.WaveTableAccess := by
  intro s idx d hs
  refine ⟨fun hk => ⟨transact_forKind_fits hs hk _, transact_forKind_fits hs hk _⟩, fun hk => ?_⟩
  have hother : s.cfg.kind ≠ .wave := by simp [hk]
  exact ⟨transact_forKind_other hs hother _, transact_forKind_other hs hother _⟩

end Sys2Proof.Machine
end

section
/-! PROOF. The amplitude of the source after its step (45_channel_glue_and_facade.md R263, R264, R270, R272). -/

namespace Sys2Proof.Machine

/-! ### The square source -/

/-- The upper two bits of the length register (10_state.md R42). -/
theorem duty_toNat (s : State) : s.duty.toNat = s.reg[1].toNat / 64 := by
  have := s.reg[1].isLt
  simp only [State.duty, BitVec.extractLsb'_toNat, Nat.shiftRight_eq_div_pow]
  omega

theorem dutyThreshold_eq (duty : BitVec 2) :
    dutyThreshold duty = if duty.toNat = 0 then 1 else if duty.toNat = 1 then 2 else if duty.toNat = 2 then 4 else 6 := by
  unfold dutyThreshold
  split
  case _ h => rw [if_pos h]
  case _ h =>
    rw [h]
    rfl
  case _ h =>
    rw [h]
    rfl
  case _ h0 h1 h2 => rw [if_neg h0, if_neg h1, if_neg h2]

theorem advanceStep_square {s : State} (hk : s.cfg.kind = .square) :
    advanceStep s = { s with dstep := BitVec.ofNat 3 ((s.dstep.toNat + 1) % 8) } := by
  have hstep : s.dstep + 1 = BitVec.ofNat 3 ((s.dstep.toNat + 1) % 8) := by bv_omega
  rw [advanceStep, hk, hstep]

/-- The square amplitude with its fields as numbers (R263, R264). -/
theorem sourceAmp_square {s : State} (hk : s.cfg.kind = .square) :
    s.sourceAmp =
      if s.dstep.toNat < (if s.reg[1].toNat / 64 = 0 then 1 else if s.reg[1].toNat / 64 = 1 then 2
        else if s.reg[1].toNat / 64 = 2 then 4 else 6) then (s.volume.toNat : Int) else -(s.volume.toNat : Int) := by
  rw [State.sourceAmp, hk, squareAmp, dutyThreshold_eq, duty_toNat]

/-- Settles O36: the step and the duty code as numbers; volume and register are not touched. -/
theorem squareAmplitude : Obligations.SquareAmplitude := by
  intro s hk
  have hadvance := advanceStep_square hk
  have hk' : (advanceStep s).cfg.kind = .square := by rw [advanceStep_cfg, hk]
  have hstep : (advanceStep s).dstep.toNat = (s.dstep.toNat + 1) % 8 := by
    rw [hadvance]
    simp
  refine ⟨hadvance, ?_⟩
  rw [sourceAmp_square hk', hstep, advanceStep_reg, advanceStep_volume]

/-! ### The wave source -/

/-- Bit 7 of the first register (10_state.md R46). -/
theorem won_eq_false_iff (s : State) : s.won = false ↔ s.reg[0].toNat < 128 := by
  have := s.reg[0].isLt
  simp only [State.won, BitVec.getLsbD, Nat.testBit_eq_decide_div_mod_eq, decide_eq_false_iff_not]
  omega

/-- Bits 6 and 5 of the volume register (10_state.md R46). -/
theorem wvol_toNat (s : State) : s.wvol.toNat = s.reg[2].toNat / 32 % 4 := by
  simp [State.wvol, Nat.shiftRight_eq_div_pow]

/-- The high half of its byte for an even sample, the low half for an odd one (20_memory.md R72). -/
theorem nibble_toNat (s : State) (n : BitVec 5) :
    (s.nibble n).toNat =
      if n.toNat % 2 = 0 then ((s.wram[n.toNat / 2]?).getD 0).toNat / 16
      else ((s.wram[n.toNat / 2]?).getD 0).toNat % 16 := by
  have hn := n.isLt
  have hindex : n.toNat / 2 < 16 := by omega
  have hbyte := s.wram[n.toNat / 2].isLt
  rw [Vector.getElem?_eq_getElem hindex, Option.getD_some, State.nibble]
  split_ifs
  · simp only [BitVec.extractLsb'_toNat, Nat.shiftRight_eq_div_pow]
    omega
  · simp

theorem advanceStep_wave {s : State} (hk : s.cfg.kind = .wave) :
    advanceStep s = { s with wstep := BitVec.ofNat 5 ((s.wstep.toNat + 1) % 32) } := by
  have hstep : s.wstep + 1 = BitVec.ofNat 5 ((s.wstep.toNat + 1) % 32) := by bv_omega
  rw [advanceStep, hk, hstep]

/-- The wave amplitude with its fields as numbers (R270, R272). -/
theorem sourceAmp_wave {s : State} (hk : s.cfg.kind = .wave) :
    s.sourceAmp =
      if s.reg[0].toNat < 128 ∨ s.reg[2].toNat / 32 % 4 = 0 then (0 : Int)
      else (((s.nibble s.wstep).toNat : Int) - (8 : Int)) / (2 : Int) ^ (s.reg[2].toNat / 32 % 4 - 1) := by
  rw [State.sourceAmp, hk]
  simp only [waveAmp, wvol_toNat, ← won_eq_false_iff, Bool.or_eq_true, Bool.not_eq_true', decide_eq_true_eq]

/-- Settles O37: the step, the gate, the shift code and the nibble as numbers; registers and wave table are not touched. -/
theorem waveAmplitude : Obligations.WaveAmplitude := by
  intro s hk
  have hadvance := advanceStep_wave hk
  have hk' : (advanceStep s).cfg.kind = .wave := by rw [advanceStep_cfg, hk]
  have hstep : (advanceStep s).wstep.toNat = (s.wstep.toNat + 1) % 32 := by
    rw [hadvance]
    simp
  refine ⟨hadvance, ?_⟩
  rw [sourceAmp_wave hk', nibble_toNat, hstep, advanceStep_reg, advanceStep_wram]

end Sys2Proof.Machine
end

section
/-! PROOF. The halted block and the reset: what is refused, dropped, cut off or made to wait (60_exceptions.md R306, R311,
R322). -/

namespace Sys2Proof.Machine

/-! ### A halted block -/

section

variable {s : State} (hf : s.fault ≠ .none)
include hf

/-- Every command but `RST` is a transaction, which a halted block refuses. -/
theorem exec_halted {i : Instr} (hi : i ≠ .rst) : exec i s = .next s := by
  cases i with
  | rst => exact absurd rfl hi
  | _ => exact congrArg Host.Outcome.next (if_pos ((halted_iff s).2 hf))

/-- A halted block continues no transaction, so a reset never waits for one. -/
theorem not_underWay_of_halted : s.underWay = false := not_underWay_of_idle fun hs => absurd hs hf

theorem turnW_halted_emu {e : EmuRun} (he : s.emu = some e) : turnW s = .next { s with emu := none } := by
  simp [turnW, (halted_iff s).2 hf, he]

theorem turnW_halted_free (he : s.emu = none) : turnW s = .next (dropCommand .w s) := by
  simp [turnW, (halted_iff s).2 hf, he]

theorem turnR_halted_render {r : RenderRun} (hr : s.render = some r) : turnR s = .next { s with render := none } := by
  simp [turnR, (halted_iff s).2 hf, hr]

theorem turnR_halted_free (hr : s.render = none) : turnR s = .next (dropCommand .r s) := by
  simp [turnR, (halted_iff s).2 hf, hr]

theorem turnHost_halted {h : Word} {ws : List Word} (hw : s.portWords .host = h :: ws) : turnHost s =
    .next (if h = 0xF000 then resetBlock (dropCommand .host s) else dropCommand .host s) := by
  by_cases hrst : h = 0xF000
  · have hidle : (dropCommand .host s).underWay = false := by rw [dropCommand_underWay, not_underWay_of_halted hf]
    simp [turnHost, hw, hrst, not_underWay_of_halted hf, execRst_next _ hidle]
  · simp only [turnHost, hw, if_neg hrst, if_pos ((halted_iff s).2 hf)]

end

/-- Settles O10: commands are refused transactions, and each turn goes by what its agent has under way or pending. -/
theorem haltedBlockRefusesAllButReset : Obligations.HaltedBlockRefusesAllButReset := by
  intro s hf
  have hf' : (takeTurn s).fault ≠ .none := by rwa [takeTurn_fault]
  unfold step
  refine ⟨fun i => exec_halted hf, execRst_next s (not_underWay_of_halted hf), fun ha => ?_, fun ha => ?_, fun ha => ?_⟩
  · rw [ha]
    cases he : s.emu with
    | some e => exact turnW_halted_emu hf' ((takeTurn_emu s).trans he)
    | none => exact turnW_halted_free hf' ((takeTurn_emu s).trans he)
  · rw [ha]
    cases hr : s.render with
    | some r => exact turnR_halted_render hf' ((takeTurn_render s).trans hr)
    | none => exact turnR_halted_free hf' ((takeTurn_render s).trans hr)
  · rw [ha]
    cases hw : s.env.hostPort with
    | nil =>
      have hw' : (takeTurn s).portWords .host = [] := (takeTurn_portWords s .host).trans hw
      simp [agentTurn, turnHost, hw']
    | cons h ws => exact turnHost_halted hf' ((takeTurn_portWords s .host).trans hw)

/-! ### A reset with a transaction under way -/

theorem underWay_of_not_idle {s : State} (hs : s.Running) (hbusy : ¬ s.Idle) : s.underWay = true := by
  by_contra h
  exact hbusy (idle_of_not_underWay s hs (by simpa using h))

/-- Settles O50: a running block whose agents are not both idle has a transaction under way. -/
theorem resetWaitsForIdleAgents : Obligations.ResetWaitsForIdleAgents := by
  intro s hs hbusy
  have hway := underWay_of_not_idle hs hbusy
  refine ⟨by simp [exec, execRst, hway], fun ws ha hw => ?_⟩
  have hw' : (takeTurn s).portWords .host = 0xF000 :: ws := (takeTurn_portWords s .host).trans hw
  simp [step, ha, agentTurn, turnHost, hw', hway]

end Sys2Proof.Machine
end

section
/-! PROOF. What faults, and with which code: overflow of the cycle count, the tests of an insertion, and that a fault changes
nothing but the code and the elapsed part of a cycle (60_exceptions.md R301 to R310). -/

namespace Sys2Proof.Machine

/-! ### The cycle count (R303) -/

theorem cycle_overflow {s : State} (hs : s.Running) (h : s.cyc.toInt = maxI64) :
    cycle s = ⟨{ s with fault := .cycOvf }, false⟩ := by
  have hover : s.cycOverflows 1 = true := by simp [State.cycOverflows, h]
  rw [cycle, if_pos hover, raise_running _ s hs]

theorem emuCycle_overflow {s : State} (hs : s.Running) (h : s.cyc.toInt = maxI64) (e : EmuRun) :
    emuCycle e s = { s with fault := .cycOvf, emu := none } :=
  emuCycle_halted e (cycle_overflow hs h) (by simp)

/-- Settles O25: the test for the overflow comes first in a cycle and in a batch. -/
theorem cycleCountOverflow : Obligations.CycleCountOverflow := by
  intro s hs
  refine ⟨fun hmax => ⟨?_, fun n hn => ?_, fun e he ha => ?_⟩, fun n hn => ?_⟩
  · rw [exec_cyc_running hs, oneCycle_eq, cycle_overflow hs hmax, writeFired_halted _ (by simp)]
  · rw [exec_emu hs hn, emuCycle_overflow hs hmax]
  · rw [(stepContinuesOrIdles s hs).1 e ha he, emuCycle_overflow (takeTurn_running hs) (by simpa using hmax)]
  · have hover : s.cycOverflows n.toNat = true := decide_eq_true hn
    rw [exec_fdivn_running hs, batch, if_pos hover, raise_running _ s hs]

/-! ### Insertions (R309) -/

/-- The stamp test as the rule writes it (43 R206). -/
theorem outOfOrder_iff (s : State) (c : Cycle) :
    s.outOfOrder c = true ↔ s.wrValid = true ∧ c.toInt < (s.slot (s.prev s.newest)).start.toInt := by
  rw [State.outOfOrder, Bool.and_eq_true, decide_eq_true_eq]
  rfl

/-- Settles O40: the outcome of each test is one of the cases of an insertion. -/
theorem insertionFaults : Obligations.InsertionFaults := by
  intro s b c hs hlock
  have raises {x : FaultCode} (h : insertRecord (s.insAmp b) c s = raise x s) :
      exec (.ins b c) s = .next { s with fault := x } := by
    rw [exec_ins_running hs, h, raise_running x s hs, ← hlock]
  refine ⟨fun hneg => raises (if_pos hneg), fun hc hnew => ⟨fun hlate => raises ?_, fun hord hfull => raises ?_⟩⟩
  · have hout : s.outOfOrder c = true := (outOfOrder_iff s c).2 hlate
    simp [insertRecord, not_lt.2 hc, hnew, hout]
  · have hin : s.outOfOrder c = false := Bool.eq_false_iff.2 (mt (outOfOrder_iff s c).1 hord)
    have hfull' : s.ringFull = true := decide_eq_true hfull
    simp [insertRecord, not_lt.2 hc, hnew, hin, hfull']

/-- The codes an insertion can raise. -/
def insertionFault (x : FaultCode) : Prop := x = .badArg ∨ x = .order ∨ x = .ringFull

theorem insertionFault_ne {x : FaultCode} (h : insertionFault x) :
    x ≠ .none ∧ x ≠ .div0 ∧ x ≠ .illegalCmd ∧ x ≠ .cycOvf := by
  rcases h with rfl | rfl | rfl <;> decide

/-- An insertion that faults changes nothing else (43 R210). -/
theorem insertEvent_running_or_raises {s : State} (hs : s.Running) (hlock : s.lock = .free) (amp : Int) (c : Cycle) :
    (insertEvent amp c s).Running ∨ ∃ x, insertionFault x ∧ insertEvent amp c s = { s with fault := x } := by
  have raises {x : FaultCode} (hx : insertionFault x) (h : insertRecord amp c s = raise x s) :
      ∃ x, insertionFault x ∧ insertEvent amp c s = { s with fault := x } :=
    ⟨x, hx, by rw [insertEvent_eq, h, raise_running x s hs, ← hlock]⟩
  rcases insertRecord_cases amp c s with ⟨_, e⟩ | ⟨hc, hsame, _⟩ | ⟨_, _, _, e⟩ | ⟨_, _, _, _, e⟩ |
    ⟨hc, _, hord, hfull, _⟩
  · exact .inr (raises (.inl rfl) e)
  · exact .inl ((insertEvent_fault ⟨hc, .inl hsame⟩).trans hs)
  · exact .inr (raises (.inr (.inl rfl)) e)
  · exact .inr (raises (.inr (.inr rfl)) e)
  · exact .inl ((insertEvent_fault ⟨hc, .inr ⟨hord, hfull⟩⟩).trans hs)

/-! ### The commands that let no cycle elapse (R304, R310) -/

/-- The block is still running, or one code, not `DIV0`, was recorded and nothing else changed. -/
def RaisesAtMost (s t : State) : Prop := t.Running ∨ ∃ x, x ≠ .div0 ∧ t = { s with fault := x }

theorem clearFrames_fault (frames : Nat) (s : State) : (clearFrames frames s).fault = s.fault := by
  rw [clearFrames_only_out]

section

variable {s : State} (hs : s.Running)
include hs

theorem raise_raisesAtMost {x : FaultCode} (hx : x ≠ .div0) : RaisesAtMost s (raise x s) :=
  .inr ⟨x, hx, raise_running x s hs⟩

theorem raisesAtMost_of_fault {t : State} (h : t.fault = s.fault) : RaisesAtMost s t := .inl (h.trans hs)

theorem readReg_raisesAtMost (sel : BitVec 3) : RaisesAtMost s (readReg sel s) := by
  unfold readReg
  split
  · exact raisesAtMost_of_fault hs rfl
  · exact raise_raisesAtMost hs (by decide)

theorem tickEnvelope_raisesAtMost : RaisesAtMost s (tickEnvelope s) := by
  rw [tickEnvelope_eq]
  split_ifs <;> exact raisesAtMost_of_fault hs rfl

theorem insertEvent_raisesAtMost (hlock : s.lock = .free) (amp : Int) (c : Cycle) :
    RaisesAtMost s (insertEvent amp c s) := by
  refine (insertEvent_running_or_raises hs hlock amp c).imp_right ?_
  rintro ⟨x, hx, e⟩
  obtain ⟨_, hdiv, _, _⟩ := insertionFault_ne hx
  exact ⟨x, hdiv, e⟩

theorem beginRender_raisesAtMost (hlock : s.lock = .free) (frames : Nat) (fs : BitVec 32) (ref : Cycle) :
    RaisesAtMost s { beginRender frames fs ref s with lock := .free } := by
  unfold beginRender
  split
  · rw [raise_running _ s hs]
    exact .inr ⟨.badArg, by decide, by rw [← hlock]⟩
  · rw [updateQueue_frame]
    exact raisesAtMost_of_fault hs rfl

theorem exec_raisesAtMost (hlock : s.lock = .free) {i : Instr} {t : State} (hi : ¬ runsCycles i)
    (h : exec i s = .next t) : RaisesAtMost s t := by
  have rel {f : State → State} (hf : RaisesAtMost s (f s)) (h : transact f s = .next t) : RaisesAtMost s t :=
    transact_rel (.inl hs) hf h
  have same {f : State → State} (hf : (f s).fault = s.fault) (h : transact f s = .next t) : RaisesAtMost s t :=
    rel (raisesAtMost_of_fault hs hf) h
  have kind {k : ChKind} {f : State → State} (hf : (f s).fault = s.fault) (h : transact (forKind k f) s = .next t) :
      RaisesAtMost s t :=
    rel (forKind_rel (raise_raisesAtMost hs (by decide)) fun _ => raisesAtMost_of_fault hs hf) h
  cases i with
  | nop => exact same (f := fun u => u) rfl h
  | wrSwp d => exact kind (by simp) h
  | wrWon d | wrLen d | wrWlen d | wrEnv d | wrWvol d | wrw idx d | rdw idx => exact kind rfl h
  | wrFlo d => exact same (f := fun u => recomputePeriod (setReg 3 d u)) rfl h
  | wrFhi d => exact same (writeFhi_fault d s) h
  | rd sel => exact rel (readReg_raisesAtMost hs sel) h
  | envclk =>
    dsimp only [exec, execEnvclk] at h
    refine rel ?_ h
    split
    · exact tickEnvelope_raisesAtMost hs
    · exact .inl hs
  | ins amp c => exact rel (insertEvent_raisesAtMost hs hlock _ c) h
  | upd ref =>
    cases (execUpd_eq ref s hs).symm.trans h
    rw [updateQueue_frame]
    exact raisesAtMost_of_fault hs rfl
  | rnd frames fs ref =>
    cases (execRnd_eq frames fs ref s hs).symm.trans h
    exact beginRender_raisesAtMost hs hlock _ fs ref
  | oclr frames => exact same (clearFrames_fault _ s) h
  | rst =>
    dsimp only [exec, execRst] at h
    split at h
    · cases h
    · cases h
      exact .inl rfl
  | cyc => exact absurd (.inl rfl) hi
  | emu n => exact absurd (.inr (.inl ⟨n, rfl⟩)) hi
  | fdivn n => exact absurd (.inr (.inr ⟨n, rfl⟩)) hi

end

/-! ### The commands that let cycles elapse (R301, R303) -/

/-- A cycle or batch begun in `s` faulted: the count would overflow and nothing elapsed, or the insertion faulted and the
count, the timer and the source's step are those it was made with. -/
def FaultedCycle (s t : State) : Prop :=
  t = { s with fault := .cycOvf } ∨ (insertionFault t.fault ∧
    t = { s with fault := t.fault, cyc := t.cyc, timer := t.timer, dstep := t.dstep, wstep := t.wstep })

theorem FaultedCycle.endEmu {s t : State} (h : FaultedCycle s t) :
    FaultedCycle { s with emu := none } { t with emu := none } :=
  h.imp (fun h => by rw [h]) fun ⟨hx, h⟩ => ⟨hx, by conv_lhs => rw [h]⟩

theorem FaultedCycle.fault_ne {s t : State} (h : FaultedCycle s t) :
    t.fault ≠ .none ∧ t.fault ≠ .div0 ∧ t.fault ≠ .illegalCmd := by
  rcases h with h | ⟨hx, _⟩
  · simp [h]
  · obtain ⟨hnone, hdiv, hill, _⟩ := insertionFault_ne hx
    exact ⟨hnone, hdiv, hill⟩

/-- `fired` is not written when the cycle or batch faulted. -/
theorem writeFired_faultedCycle {s u : State} (f : Bool) (h : u.Running ∨ FaultedCycle s u) :
    (writeFired f u).Running ∨ FaultedCycle s (writeFired f u) := by
  rcases h with h | h
  · exact .inl (by rw [writeFired_running f h]; exact h)
  · exact .inr (by rwa [writeFired_halted f h.fault_ne.1])

section

variable {s : State} (hs : s.Running) (hlock : s.lock = .free)
include hs hlock

theorem insertSource_faultedCycle (n : Nat) (timer : BitVec 14) :
    (insertSource (atUnderflow n timer s)).Running ∨ FaultedCycle s (insertSource (atUnderflow n timer s)) := by
  have hu : (atUnderflow n timer s).Running := hs
  refine (insertEvent_running_or_raises hu hlock _ _).imp_right ?_
  rintro ⟨x, hx, e⟩
  rw [insertSource, e]
  exact .inr ⟨hx, rfl⟩

theorem cycle_faultedCycle : (cycle s).state.Running ∨ FaultedCycle s (cycle s).state := by
  rw [cycle_state]
  split_ifs
  · exact .inr (.inl (raise_running _ s hs))
  · rw [underflow_elapse]
    exact insertSource_faultedCycle hs hlock 1 _
  · exact .inl hs

theorem emuCycle_faultedCycle (e : EmuRun) :
    (emuCycle e s).Running ∨ FaultedCycle { s with emu := none } (emuCycle e s) := by
  rcases cycle_faultedCycle hs hlock with h | h
  · exact .inl (by rw [emuCycle_running e rfl h]; exact h)
  · exact .inr (by rw [emuCycle_halted e rfl h.fault_ne.1]; exact h.endEmu)

theorem batch_faultedCycle (n : Nat) : (batch n s).Running ∨ FaultedCycle s (batch n s) := by
  cases ho : s.cycOverflows n with
  | true =>
    rw [batch, if_pos ho]
    exact .inr (.inl (raise_running _ s hs))
  | false =>
    rcases Nat.eq_zero_or_pos (fireCount s.period n s.timer) with hnone | hfire
    · rw [batch_quiet ho hnone]
      exact .inl hs
    · rw [batch_firing ho hfire]
      exact writeFired_faultedCycle true (insertSource_faultedCycle hs hlock n _)

theorem exec_faultedCycle (hemu : s.emu = none) {i : Instr} {t : State} (hi : runsCycles i) (h : exec i s = .next t) :
    t.Running ∨ FaultedCycle s t := by
  rcases hi with rfl | ⟨n, rfl⟩ | ⟨n, rfl⟩
  · cases (exec_cyc_running hs).symm.trans h
    exact writeFired_faultedCycle _ (cycle_faultedCycle hs hlock)
  · by_cases hn : n = 0
    · subst hn
      cases ((emuRunsOneCycleAStep s hs hlock).1).symm.trans h
      exact .inl hs
    · cases (exec_emu hs hn).symm.trans h
      have hcycle := emuCycle_faultedCycle hs hlock ⟨n.toNat, false⟩
      rwa [← hemu] at hcycle
  · cases (exec_fdivn_running hs n).symm.trans h
    exact batch_faultedCycle hs hlock _

end

/-! ### Commands and later steps -/

/-- No frame and no end of a render raises anything (R310). -/
theorem renderStep_fault (r : RenderRun) (s : State) : (renderStep r s).fault = s.fault := by
  unfold renderStep
  split <;> rfl

/-- Settles O13: by whether the command lets cycles elapse; a later cycle of an `EMU` is one of its cycles. -/
theorem faultsArePrecise : Obligations.FaultsArePrecise := by
  refine ⟨fun i s t hs hlock hemu h hf => ?_, fun e s t hs hlock he ha h hf => ?_, fun r s t hs hr ha h => ?_⟩
  · by_cases hi : runsCycles i
    · have hcycle := (exec_faultedCycle hs hlock hemu hi h).resolve_left hf
      obtain ⟨_, hdiv, hill⟩ := hcycle.fault_ne
      refine ⟨hdiv, ?_⟩
      rcases hcycle with hover | ⟨hx, helapsed⟩
      · exact .inl (by rw [hover])
      · obtain ⟨_, _, _, hovf⟩ := insertionFault_ne hx
        exact .inr ⟨hi, hovf, hill, helapsed⟩
    · obtain ⟨x, hx, rfl⟩ := (exec_raisesAtMost hs hlock hi h).resolve_left hf
      exact ⟨hx, .inl rfl⟩
  · cases ((stepContinuesOrIdles s hs).1 e ha he).symm.trans h
    have hcycle := (emuCycle_faultedCycle (takeTurn_running hs) (by simpa using hlock) e).resolve_left hf
    obtain ⟨_, hdiv, hill⟩ := hcycle.fault_ne
    refine ⟨hdiv, hill, ?_⟩
    rcases hcycle with hover | ⟨hx, helapsed⟩
    · exact ⟨by rw [hover], fun _ => hover⟩
    · obtain ⟨_, _, _, hovf⟩ := insertionFault_ne hx
      exact ⟨helapsed, fun hover => absurd hover hovf⟩
  · cases ((stepContinuesOrIdles s hs).2.1 r ha hr).symm.trans h
    exact (renderStep_fault r _).trans (takeTurn_running hs)

end Sys2Proof.Machine
end
